-- ==== Sys2Proof/Word.lean ====
section
/-!
DEFINITION. The words of the block: bytes of RAM, 32-bit register words and addresses, and the 65-bit bus transaction
word (00_scope.md R9, 30_encoding.md R95).
-/

namespace Sys2Proof

/-- One byte of RAM or of a packet. -/
abbrev Byte := BitVec 8

/-- A 32-bit register word or a 32-bit byte address (R71, R76). -/
abbrev Word := BitVec 32

/-- A 65-bit bus transaction word: direction, address, data (R95). -/
abbrev BusWord := BitVec 65

end Sys2Proof
end

