-- ==== Sys2Proof/Config.lean ====
section
/-!
DEFINITION. What an implementation fixes: the parameters of 00_scope.md R7 and R8 at the values the spec gives them, the
physical-layer configuration of 40_radio_configure.md R130, and the free values (constants without a body) for what the
spec leaves open.
-/

namespace Sys2Proof

/-- The three agents of the machine (00_scope.md R11). -/
inductive Agent
  | driver
  | radio
  | timer
  deriving DecidableEq, Repr, Inhabited

/-- One entry of the air trace: the frame's bits in transmission order (42_radio_packet.md R177), with the carrier
frequency and the transmit power it was sent with (R178). -/
structure AirFrame where
  bits : List Bool
  freqMhz : Nat
  txpowerDbm : Int
  deriving DecidableEq, Repr, Inhabited

/-- The encodings of `RADIO.MODE` under `RegLayout` (10_state.md R24). -/
inductive PhyMode
  | nrf1Mbit
  | nrf2Mbit
  | ble1Mbit
  | ble2Mbit
  | bleLr125Kbit
  | bleLr500Kbit
  | ieee802154
  deriving DecidableEq, Repr

/-- The record the radio transmits with (40_radio_configure.md R130). -/
structure RadioPhysicalConfig where
  mode : PhyMode
  channel : Nat
  freqMhz : Nat
  s0len : Nat
  lflen : Nat
  s1len : Nat
  s1incl : Nat
  plen : Nat
  crcinc : Nat
  whiteen : Nat
  endian : Nat
  balen : Nat
  base : BitVec 24
  addressHigh : Byte
  txaddress : Nat
  crclen : Nat
  poly : BitVec 24
  crcinit : BitVec 24
  skipaddr : Nat
  txpowerDbm : Int
  maxlen : Nat
  statlen : Nat
  whiteIv : BitVec 6
  deriving DecidableEq, Repr

/-- The one configuration of the block (R7, R130): BLE 1 Mbps, channel 37 at 2402 MHz, access address 0x8E89BED6, 3-byte
CRC with polynomial 0x00065B and initial value 0x555555, address excluded, 0 dBm, whitening with seed 37. -/
def Config.physical : RadioPhysicalConfig :=
  { mode := .ble1Mbit
    channel := 37
    freqMhz := 2402
    s0len := 1
    lflen := 8
    s1len := 0
    s1incl := 0
    plen := 0
    crcinc := 0
    whiteen := 1
    endian := 0
    balen := 3
    base := 0x89BED6
    addressHigh := 0x8E
    txaddress := 0
    crclen := 3
    poly := 0x00065B
    crcinit := 0x555555
    skipaddr := 1
    txpowerDbm := 0
    maxlen := 37
    statlen := 0
    whiteIv := 37 }

/-- `RADIO_BASE` (R8, D3). PRESUMED by the spec from the nRF52833; notes/assumptions/1.md. -/
def Config.radioBase : Word := 0x40001000

/-- `TIMER_BASE` (R8, D3). PRESUMED by the spec from the nRF52833; notes/assumptions/1.md. -/
def Config.timerBase : Word := 0x40008000

/-- `RAM_LO` (R8, D19). PRESUMED by the spec from the nRF52833; notes/assumptions/1.md. -/
def Config.ramLo : Nat := 0x20000000

/-- `RAM_HI` (R8, D19), the last byte of the window. PRESUMED by the spec from the nRF52833; notes/assumptions/1.md. -/
def Config.ramHi : Nat := 0x2001FFFF

/-- `BUF_CAP` (R8, D20). -/
def Config.bufCap : Nat := 39

/-- `NAME_MAX` (R8, D21). -/
def Config.nameMax : Nat := 26

/-- The advertising delay in milliseconds (R7). -/
def Config.advertisingMs : Word := 100

/-- A report is made every so many transmissions (R7). -/
def Config.reportEvery : Nat := 100

/-- FREE VALUE: the agent that moves at the machine's `n`-th free choice; the spec admits every interleaving of the three
agents (R11, R255). notes/assumptions/6.md. -/
opaque Config.schedule : Nat → Agent

/-- FREE VALUE: whether the log sink keeps the report offered at choice `n`; "a model may drop any entry" (R55, R234, D42).
notes/assumptions/7.md. -/
opaque Config.logKept : Nat → Bool

/-- FREE VALUE: what a radio sends whose configuration registers (given in the order of `configure`'s lines) do not all hold
the block's words, for the latched bytes; the spec gives such a frame no meaning (D47). notes/assumptions/8.md. -/
opaque Config.foreignFrame : List Word → List Byte → AirFrame

/-- FREE VALUE: `HfClockRunning`, whether the radio's reference clock runs (R8, D41); no step reads it, a claim about what a
receiver hears takes it as a premise. notes/assumptions/26.md. -/
opaque Config.hfClockRunning : Bool

end Sys2Proof
end

