-- ==== Sys2Proof/Syntax.lean ====
section
/-!
DEFINITION. The operations of the block: one constructor of `Instr` per row of spec/opcode_table.json, and the two formats
an operation has, the 65-bit bus transaction (30_encoding.md R95) and the procedure selector (R97).

A write keeps its data word as an operand: a transaction's row is found by its direction and address alone (R98), and its
data word is checked when it executes, after the state check (60_exceptions.md R255).
-/

namespace Sys2Proof

/-- The direction of a bus transaction (R95). -/
inductive Dir
  | read
  | write
  deriving DecidableEq, Repr

/-- A bus transaction `(dir, addr, data)` (R95). -/
structure Transaction where
  dir : Dir
  addr : Word
  data : Word
  deriving DecidableEq, Repr

/-- The operand a procedure operation carries. -/
inductive Arg
  | none
  | word (w : Word)
  | bytes (bs : List Byte)
  deriving DecidableEq, Repr

/-- An operation as the DRIVER issues it: a bus transaction word, or a procedure named by its selector with its operand
(R95, R97, R109). -/
inductive Code
  | bus (t : BusWord)
  | call (selector : BitVec 8) (arg : Arg)
  deriving DecidableEq, Repr

/-- The operations of the opcode table, in its order. -/
inductive Instr
  /-- `TRIG RADIO.TASKS_TXEN` (R137). -/
  | trigRadioTxen (data : Word)
  /-- `TRIG RADIO.TASKS_START` (R139). -/
  | trigRadioStart (data : Word)
  /-- `TRIG RADIO.TASKS_DISABLE` (R141). -/
  | trigRadioDisable (data : Word)
  /-- `CLR RADIO.EVENTS_READY` (R144). -/
  | clrRadioReady (data : Word)
  /-- `RD RADIO.EVENTS_READY` (R145). -/
  | rdRadioReady
  /-- `CLR RADIO.EVENTS_END` (R146). -/
  | clrRadioEnd (data : Word)
  /-- `RD RADIO.EVENTS_END` (R147). -/
  | rdRadioEnd
  /-- `WR RADIO.PACKETPTR, a` (R136). -/
  | wrRadioPacketptr (a : Word)
  /-- `WR RADIO.FREQUENCY` (R118). -/
  | wrRadioFrequency (data : Word)
  /-- `WR RADIO.TXPOWER` (R117). -/
  | wrRadioTxpower (data : Word)
  /-- `WR RADIO.MODE` (R116). -/
  | wrRadioMode (data : Word)
  /-- `WR RADIO.PCNF0` (R119). -/
  | wrRadioPcnf0 (data : Word)
  /-- `WR RADIO.PCNF1` (R120). -/
  | wrRadioPcnf1 (data : Word)
  /-- `WR RADIO.BASE0` (R121). -/
  | wrRadioBase0 (data : Word)
  /-- `WR RADIO.PREFIX0` (R122). -/
  | wrRadioPrefix0 (data : Word)
  /-- `WR RADIO.TXADDRESS` (R123). -/
  | wrRadioTxaddress (data : Word)
  /-- `WR RADIO.CRCCNF` (R124). -/
  | wrRadioCrccnf (data : Word)
  /-- `WR RADIO.CRCPOLY` (R125). -/
  | wrRadioCrcpoly (data : Word)
  /-- `WR RADIO.CRCINIT` (R126). -/
  | wrRadioCrcinit (data : Word)
  /-- `WR RADIO.DATAWHITEIV` (R127). -/
  | wrRadioDatawhiteiv (data : Word)
  /-- `TRIG TIMER.TASKS_START` (R209). -/
  | trigTimerStart (data : Word)
  /-- `TRIG TIMER.TASKS_STOP` (R210). -/
  | trigTimerStop (data : Word)
  /-- `TRIG TIMER.TASKS_CLEAR` (R208). -/
  | trigTimerClear (data : Word)
  /-- `CLR TIMER.EVENTS_COMPARE0` (R213). -/
  | clrTimerCompare0 (data : Word)
  /-- `RD TIMER.EVENTS_COMPARE0` (R214). -/
  | rdTimerCompare0
  /-- `WR TIMER.MODE` (R205). -/
  | wrTimerMode (data : Word)
  /-- `WR TIMER.BITMODE` (R206). -/
  | wrTimerBitmode (data : Word)
  /-- `WR TIMER.PRESCALER` (R207). -/
  | wrTimerPrescaler (data : Word)
  /-- `WR TIMER.CC0, t` (R211). -/
  | wrTimerCc0 (t : Word)
  /-- `STB addr, imm8`; `data[7:0]` is the byte and `data[31:8]` is 0 (R96, R199). -/
  | stb (addr : Word) (data : Word)
  /-- `CALL main` (R230). -/
  | callMain
  /-- `CALL configure` (R115). -/
  | callConfigure
  /-- `CALL transmit(buf_addr)` (R148). -/
  | callTransmit (bufAddr : Word)
  /-- `CALL encode(name)` (R185). -/
  | callEncode (name : List Byte)
  /-- `CALL timer_init` (R220). -/
  | callTimerInit
  /-- `CALL delay_ms(n)` (R221). -/
  | callDelayMs (n : Word)
  /-- `HALT` (R235). -/
  | halt
  deriving DecidableEq, Repr

/-- The three event registers a `WAIT` can name (R108, R143). -/
inductive Event
  | radioReady
  | radioEnd
  | timerCompare0
  deriving DecidableEq, Repr

/-- The read a `WAIT` repeats (R108). -/
def Event.read : Event → Instr
  | .radioReady => .rdRadioReady
  | .radioEnd => .rdRadioEnd
  | .timerCompare0 => .rdTimerCompare0

/-- One line of a driver program in the notation of R107: an operation, or the pseudo-instruction `WAIT`. -/
inductive TextLine
  | op (c : Code)
  | wait (e : Event)
  deriving DecidableEq, Repr

end Sys2Proof
end

