-- ==== Sys2Proof/Decode.lean ====
section
/-!
DEFINITION. Decoding and encoding (30_encoding.md): the register addresses of `RegLayout` (10_state.md, R75), the assembly of
the data words (R105), the 65-bit transaction word (R95), the admitted map (R102) as a table of rows, the decoder that looks
a transaction up in it (R98), the procedure selectors (R97), and the encoder.
-/

namespace Sys2Proof

/-! ## Register addresses (R75, R102) -/

/-- The address of a RADIO register at an offset of `RegLayout`. -/
def radioReg (offset : Word) : Word := Config.radioBase + offset

/-- The address of a TIMER register at an offset of `RegLayout`. -/
def timerReg (offset : Word) : Word := Config.timerBase + offset

def addrRadioTasksTxen : Word := radioReg 0x000
def addrRadioTasksStart : Word := radioReg 0x008
def addrRadioTasksDisable : Word := radioReg 0x010
def addrRadioEventsReady : Word := radioReg 0x100
def addrRadioEventsEnd : Word := radioReg 0x10C
def addrRadioPacketptr : Word := radioReg 0x504
def addrRadioFrequency : Word := radioReg 0x508
def addrRadioTxpower : Word := radioReg 0x50C
def addrRadioMode : Word := radioReg 0x510
def addrRadioPcnf0 : Word := radioReg 0x514
def addrRadioPcnf1 : Word := radioReg 0x518
def addrRadioBase0 : Word := radioReg 0x51C
def addrRadioPrefix0 : Word := radioReg 0x524
def addrRadioTxaddress : Word := radioReg 0x52C
def addrRadioCrccnf : Word := radioReg 0x534
def addrRadioCrcpoly : Word := radioReg 0x538
def addrRadioCrcinit : Word := radioReg 0x53C
def addrRadioDatawhiteiv : Word := radioReg 0x554
def addrTimerTasksStart : Word := timerReg 0x000
def addrTimerTasksStop : Word := timerReg 0x004
def addrTimerTasksClear : Word := timerReg 0x00C
def addrTimerEventsCompare0 : Word := timerReg 0x140
def addrTimerMode : Word := timerReg 0x504
def addrTimerBitmode : Word := timerReg 0x508
def addrTimerPrescaler : Word := timerReg 0x510
def addrTimerCc0 : Word := timerReg 0x540

/-! ## Assembly of the data words (R105) -/

/-- The lowest `width` bits of `v`, placed at bit `lo` of a register word. -/
def packField (width lo v : Nat) : Word := BitVec.ofNat 32 (v % 2 ^ width) <<< lo

/-- `RADIO.MODE` of a physical-layer mode (R24). -/
def PhyMode.word : PhyMode → Word
  | .nrf1Mbit => 0
  | .nrf2Mbit => 1
  | .ble1Mbit => 3
  | .ble2Mbit => 4
  | .bleLr125Kbit => 5
  | .bleLr500Kbit => 6
  | .ieee802154 => 15

def assembleFrequency (c : RadioPhysicalConfig) : Word := packField 7 0 (c.freqMhz - 2400)

def assembleTxpower (c : RadioPhysicalConfig) : Word := (BitVec.ofInt 8 c.txpowerDbm).setWidth 32

def assemblePcnf0 (c : RadioPhysicalConfig) : Word :=
  packField 4 0 c.lflen ||| packField 1 8 c.s0len ||| packField 4 16 c.s1len ||| packField 1 20 c.s1incl
    ||| packField 2 24 c.plen ||| packField 1 26 c.crcinc

def assemblePcnf1 (c : RadioPhysicalConfig) : Word :=
  packField 8 0 c.maxlen ||| packField 8 8 c.statlen ||| packField 3 16 c.balen ||| packField 1 24 c.endian
    ||| packField 1 25 c.whiteen

def assembleBase0 (c : RadioPhysicalConfig) : Word := c.base.setWidth 32 <<< 8

def assemblePrefix0 (c : RadioPhysicalConfig) : Word := c.addressHigh.setWidth 32

def assembleTxaddress (c : RadioPhysicalConfig) : Word := packField 3 0 c.txaddress

def assembleCrccnf (c : RadioPhysicalConfig) : Word := packField 2 0 c.crclen ||| packField 2 8 c.skipaddr

def wordRadioMode : Word := Config.physical.mode.word
def wordRadioFrequency : Word := assembleFrequency Config.physical
def wordRadioTxpower : Word := assembleTxpower Config.physical
def wordRadioPcnf0 : Word := assemblePcnf0 Config.physical
def wordRadioPcnf1 : Word := assemblePcnf1 Config.physical
def wordRadioBase0 : Word := assembleBase0 Config.physical
def wordRadioPrefix0 : Word := assemblePrefix0 Config.physical
def wordRadioTxaddress : Word := assembleTxaddress Config.physical
def wordRadioCrccnf : Word := assembleCrccnf Config.physical
def wordRadioCrcpoly : Word := Config.physical.poly.setWidth 32
def wordRadioCrcinit : Word := Config.physical.crcinit.setWidth 32
def wordRadioDatawhiteiv : Word := Config.physical.whiteIv.setWidth 32

/-- `TIMER.MODE = Timer` (R44, R105). -/
def wordTimerMode : Word := 0

/-- `TIMER.BITMODE` for a 32-bit counter (R45, R105). -/
def wordTimerBitmode : Word := 3

/-- `TIMER.PRESCALER` for 16 MHz / 2^4 = 1 MHz (R46, R105). -/
def wordTimerPrescaler : Word := 4

/-- The only word a task register admits (R100). -/
def taskWord : Word := 1

/-- The only word an event register admits (R101). -/
def clearWord : Word := 0

/-! ## The transaction word (R95) -/

def Dir.bit : Dir → BitVec 1
  | .read => 0
  | .write => 1

/-- `t[64]` the direction, `t[63:32]` the address, `t[31:0]` the data. -/
def packTransaction (x : Transaction) : BusWord := x.dir.bit ++ x.addr ++ x.data

def unpackTransaction (t : BusWord) : Transaction :=
  { dir := if t.getLsbD 64 then .write else .read
    addr := t.extractLsb' 32 32
    data := t.extractLsb' 0 32 }

/-! ## The admitted map (R102) -/

/-- A row of the admitted map: its access, its address pattern under its mask, the one data word it admits (`none` where it
admits any), and the operation it spells. -/
structure MapRow where
  dir : Dir
  pattern : Word
  mask : Word
  admits : Option Word
  spell : Word → Word → Instr

/-- A row for a register: the full address (R98). -/
def registerRow (dir : Dir) (addr : Word) (admits : Option Word) (spell : Word → Instr) : MapRow :=
  ⟨dir, addr, 0xFFFFFFFF, admits, fun _ data => spell data⟩

def radioTaskEventRows : List MapRow := [
  registerRow .write addrRadioTasksTxen (some taskWord) .trigRadioTxen,
  registerRow .write addrRadioTasksStart (some taskWord) .trigRadioStart,
  registerRow .write addrRadioTasksDisable (some taskWord) .trigRadioDisable,
  registerRow .write addrRadioEventsReady (some clearWord) .clrRadioReady,
  registerRow .read addrRadioEventsReady (some 0) (fun _ => .rdRadioReady),
  registerRow .write addrRadioEventsEnd (some clearWord) .clrRadioEnd,
  registerRow .read addrRadioEventsEnd (some 0) (fun _ => .rdRadioEnd)]

def radioRegisterRows : List MapRow := [
  registerRow .write addrRadioPacketptr none .wrRadioPacketptr,
  registerRow .write addrRadioFrequency (some wordRadioFrequency) .wrRadioFrequency,
  registerRow .write addrRadioTxpower (some wordRadioTxpower) .wrRadioTxpower,
  registerRow .write addrRadioMode (some wordRadioMode) .wrRadioMode,
  registerRow .write addrRadioPcnf0 (some wordRadioPcnf0) .wrRadioPcnf0,
  registerRow .write addrRadioPcnf1 (some wordRadioPcnf1) .wrRadioPcnf1,
  registerRow .write addrRadioBase0 (some wordRadioBase0) .wrRadioBase0,
  registerRow .write addrRadioPrefix0 (some wordRadioPrefix0) .wrRadioPrefix0,
  registerRow .write addrRadioTxaddress (some wordRadioTxaddress) .wrRadioTxaddress,
  registerRow .write addrRadioCrccnf (some wordRadioCrccnf) .wrRadioCrccnf,
  registerRow .write addrRadioCrcpoly (some wordRadioCrcpoly) .wrRadioCrcpoly,
  registerRow .write addrRadioCrcinit (some wordRadioCrcinit) .wrRadioCrcinit,
  registerRow .write addrRadioDatawhiteiv (some wordRadioDatawhiteiv) .wrRadioDatawhiteiv]

def timerRows : List MapRow := [
  registerRow .write addrTimerTasksStart (some taskWord) .trigTimerStart,
  registerRow .write addrTimerTasksStop (some taskWord) .trigTimerStop,
  registerRow .write addrTimerTasksClear (some taskWord) .trigTimerClear,
  registerRow .write addrTimerEventsCompare0 (some clearWord) .clrTimerCompare0,
  registerRow .read addrTimerEventsCompare0 (some 0) (fun _ => .rdTimerCompare0),
  registerRow .write addrTimerMode (some wordTimerMode) .wrTimerMode,
  registerRow .write addrTimerBitmode (some wordTimerBitmode) .wrTimerBitmode,
  registerRow .write addrTimerPrescaler (some wordTimerPrescaler) .wrTimerPrescaler,
  registerRow .write addrTimerCc0 none .wrTimerCc0]

/-- `STB`: any address of the RAM window, by its mask (R96, R102 row 30). -/
def stbRow : MapRow := ⟨.write, 0x20000000, 0xFFFE0000, none, .stb⟩

/-- The 30 transactions of R102. -/
def admittedMap : List MapRow := radioTaskEventRows ++ radioRegisterRows ++ timerRows ++ [stbRow]

/-- The row's `access` equals `dir` and `(addr AND mask) = match` (R98). -/
def MapRow.hits (r : MapRow) (dir : Dir) (addr : Word) : Bool :=
  decide (r.dir = dir) && decide (addr &&& r.mask = r.pattern)

/-- The row a transaction selects; the rows exclude each other (R98). -/
def findRow (dir : Dir) (addr : Word) : Option MapRow := admittedMap.find? (fun r => r.hits dir addr)

/-! ## The decoder (R98, R109) -/

/-- The operation a transaction spells. A read is issued with data 0 (R95); a read word with other data bits is refused
(DEDUCED, notes/assumptions/18.md). -/
def decodeTransaction (x : Transaction) : Option Instr :=
  match findRow x.dir x.addr with
  | none => none
  | some r => if x.dir = .read ∧ x.data ≠ 0 then none else some (r.spell x.addr x.data)

/-- The procedure a selector names, with the operand that procedure takes (R97); any other selector or operand is refused
(DEDUCED, notes/assumptions/32.md). -/
def decodeCall (selector : BitVec 8) (arg : Arg) : Option Instr :=
  match selector.toNat, arg with
  | 1, .none => some .callMain
  | 2, .none => some .callConfigure
  | 3, .word a => some (.callTransmit a)
  | 4, .bytes bs => some (.callEncode bs)
  | 5, .none => some .callTimerInit
  | 6, .word n => some (.callDelayMs n)
  | 7, .none => some .halt
  | _, _ => none

/-- Total on every operation word; `none` is a refusal (R98). -/
def decode : Code → Option Instr
  | .bus t => decodeTransaction (unpackTransaction t)
  | .call selector arg => decodeCall selector arg

/-! ## The encoder -/

/-- The word of a write to a register or to RAM. -/
def writeCode (addr data : Word) : Code := .bus (packTransaction ⟨.write, addr, data⟩)

/-- The word of a read of a register, data 0 on issue. -/
def readCode (addr : Word) : Code := .bus (packTransaction ⟨.read, addr, 0⟩)

/-- The operation word of an instruction (R95 to R97, R102). -/
def encode : Instr → Code
  | .trigRadioTxen d => writeCode addrRadioTasksTxen d
  | .trigRadioStart d => writeCode addrRadioTasksStart d
  | .trigRadioDisable d => writeCode addrRadioTasksDisable d
  | .clrRadioReady d => writeCode addrRadioEventsReady d
  | .rdRadioReady => readCode addrRadioEventsReady
  | .clrRadioEnd d => writeCode addrRadioEventsEnd d
  | .rdRadioEnd => readCode addrRadioEventsEnd
  | .wrRadioPacketptr a => writeCode addrRadioPacketptr a
  | .wrRadioFrequency d => writeCode addrRadioFrequency d
  | .wrRadioTxpower d => writeCode addrRadioTxpower d
  | .wrRadioMode d => writeCode addrRadioMode d
  | .wrRadioPcnf0 d => writeCode addrRadioPcnf0 d
  | .wrRadioPcnf1 d => writeCode addrRadioPcnf1 d
  | .wrRadioBase0 d => writeCode addrRadioBase0 d
  | .wrRadioPrefix0 d => writeCode addrRadioPrefix0 d
  | .wrRadioTxaddress d => writeCode addrRadioTxaddress d
  | .wrRadioCrccnf d => writeCode addrRadioCrccnf d
  | .wrRadioCrcpoly d => writeCode addrRadioCrcpoly d
  | .wrRadioCrcinit d => writeCode addrRadioCrcinit d
  | .wrRadioDatawhiteiv d => writeCode addrRadioDatawhiteiv d
  | .trigTimerStart d => writeCode addrTimerTasksStart d
  | .trigTimerStop d => writeCode addrTimerTasksStop d
  | .trigTimerClear d => writeCode addrTimerTasksClear d
  | .clrTimerCompare0 d => writeCode addrTimerEventsCompare0 d
  | .rdTimerCompare0 => readCode addrTimerEventsCompare0
  | .wrTimerMode d => writeCode addrTimerMode d
  | .wrTimerBitmode d => writeCode addrTimerBitmode d
  | .wrTimerPrescaler d => writeCode addrTimerPrescaler d
  | .wrTimerCc0 t => writeCode addrTimerCc0 t
  | .stb a d => writeCode a d
  | .callMain => .call 1 .none
  | .callConfigure => .call 2 .none
  | .callTransmit a => .call 3 (.word a)
  | .callEncode bs => .call 4 (.bytes bs)
  | .callTimerInit => .call 5 .none
  | .callDelayMs n => .call 6 (.word n)
  | .halt => .call 7 .none

/-! ## The opcode table's words

The table gives a bus row its 32 address bits and, in the columns `access` and `data`, its direction and data word; it gives
a procedure row its 8 selector bits (notes/assumptions/22.md). -/

/-- The transaction the table's address word stands for: a read where the table has a read row there (direction and data
bits 0), else the write row's admitted data word (0 where it admits any). -/
def tableTransaction (addr : Word) : Transaction :=
  match findRow .read addr with
  | some _ => ⟨.read, addr, 0⟩
  | none =>
    match findRow .write addr with
    | some r => ⟨.write, addr, r.admits.getD 0⟩
    | none => ⟨.read, addr, 0⟩

/-- The operand of zeros of a procedure. -/
def zeroArg (selector : BitVec 8) : Arg :=
  match selector.toNat with
  | 3 => .word 0
  | 4 => .bytes []
  | 6 => .word 0
  | _ => .none

/-- The operation word behind a word of the opcode table: 8 bits are a selector, up to 32 bits an address, more a whole
transaction word. -/
def tableCode (nbits w : Nat) : Code :=
  if nbits ≤ 8 then .call (BitVec.ofNat 8 w) (zeroArg (BitVec.ofNat 8 w))
  else if nbits ≤ 32 then .bus (packTransaction (tableTransaction (BitVec.ofNat 32 w)))
  else .bus (BitVec.ofNat 65 w)

/-- What the decoder reads from a word of the opcode table. -/
def decodeTableWord (nbits w : Nat) : Option Instr := decode (tableCode nbits w)

end Sys2Proof
end

