-- ==== Sys2Proof/Machine/State.lean ====
section
/-!
DEFINITION. The machine state `(drv, radio, timer, ram, air, log, fault)` (10_state.md R20) as plain data, its values at
launch (R57), and the reasons a step can stop.

Where the spec says that a variable or register "holds no value" (R21, R57), its field is an `Option`: no value is a state
the spec itself gives it (notes/assumptions/11.md).
-/

namespace Sys2Proof.Machine

/-! ## Faults as state (60_exceptions.md R246) -/

/-- The reason an `F_UNADMITTED` records: the raising rule's own (R247). -/
inductive Reason
  /-- The transaction matches no row of the admitted map (R98). -/
  | noRow
  /-- A data word other than the admitted one (R99 to R101, R96). -/
  | value
  /-- A radio configuration write outside `Idle` (R128). -/
  | configWhileRadioBusy
  /-- `TXEN` in `Enabling`, `Ready`, `Transmitting` or `Ended` (R137). -/
  | txenWhileRadioBusy
  /-- `START` outside `Ready` (R139). -/
  | startOutsideReady
  /-- `START` with `PACKETPTR` never written (R139). -/
  | packetptrUnwritten
  /-- `DISABLE` outside `Ended` (R141). -/
  | disableOutsideEnded
  /-- A timer configuration write while the timer runs (R215). -/
  | configWhileTimerRuns
  /-- An `STB` outside the RAM window (R199). -/
  | address
  deriving DecidableEq, Repr

/-- The driver variables that may hold no value (10_state.md R21; `r` and `i` of 45_transmit_loop.md R230). -/
inductive DriverVar
  | bufAddr
  | txCount
  | nMs
  | r
  | i
  deriving DecidableEq, Repr

/-- The three calls out of order (R251). -/
inductive SequenceError
  | transmitBeforeConfigure
  | configureTwice
  | delayBeforeTimerInit
  deriving DecidableEq, Repr

/-- A fault with the information it records (R246). -/
inductive FaultMark
  /-- `F_UNADMITTED` of a transaction (R247). -/
  | unadmitted (t : Transaction) (why : Reason)
  /-- `F_UNADMITTED` of a procedure operation that names no procedure (R97, R98; notes/assumptions/32.md). -/
  | unadmittedCall (selector : BitVec 8)
  /-- `F_UNADMITTED` of a read of a driver variable that holds no value (R21, R247). -/
  | unadmittedVar (x : DriverVar)
  /-- `F_DMA_RACE` (R248): the address written. -/
  | dmaRace (addr : Word)
  /-- `F_BAD_PACKETPTR` (R249): the pointer. -/
  | badPacketptr (ptr : Word)
  /-- `F_DELAY_OVERFLOW` (R250): `n`. -/
  | delayOverflow (n : Word)
  /-- `F_SEQUENCE` (R251): which call. -/
  | sequence (which : SequenceError)
  deriving DecidableEq, Repr

/-! ## DRIVER -/

/-- What a call of `encode` returns (43_pdu_encoder.md R185): `Ok(B, w)`, or `Err(E_NAME_TOO_LONG)` with the name's length
(60_exceptions.md R245). -/
inductive EncodeResult
  | ok (addr : Word) (len : Word)
  | nameTooLong (n : Nat)
  deriving DecidableEq, Repr

inductive DriverMode
  | running
  | halted
  deriving DecidableEq, Repr

/-- The procedures a sequence pointer names (R22), each with its operands; `foreign` is a driver program other than the
block's `main` (95_test_vectors.md P1, P2, P3, P6), whose text is `State.text`. -/
inductive Proc
  | main
  | configure
  | transmit (bufAddr : Word)
  | encode (name : List Byte)
  | timerInit
  | delayMs (n : Word)
  | halt
  | foreign
  deriving DecidableEq, Repr

/-- The sequence pointer `(proc, step)` (R22); `sub` counts the single steps of a line of `encode` that lists several `STB`
(notes/assumptions/19.md). -/
structure Seq where
  proc : Proc
  line : Nat
  sub : Nat
  deriving DecidableEq, Repr

/-- The DRIVER's variables (R21, R22), the callers its procedures return to, and `r` and `i` of `main` (R230). -/
structure Driver where
  bufAddr : Option Word
  pduLen : Option Word
  txCount : Option Word
  nMs : Option Word
  v : Option Word
  configured : Bool
  timerReady : Bool
  mode : DriverMode
  seq : Seq
  callers : List Seq
  r : Option EncodeResult
  iter : Option Nat
  deriving DecidableEq, Repr

/-! ## RADIO -/

/-- The frame latch (R43): the bytes read at `START`, and the pointer they were read at (43_pdu_encoder.md R199). -/
structure Latch where
  ptr : Word
  bytes : List Byte
  deriving DecidableEq, Repr

/-- The six states of the radio (R41). The latch holds a value exactly in `Transmitting` (R43; notes/assumptions/30.md). -/
inductive RadioState
  | idle
  | enabling
  | ready
  | transmitting (l : Latch)
  | ended
  | disabled
  deriving DecidableEq, Repr

/-- The RADIO's registers (R24 to R39) and its state (R41). -/
structure Radio where
  mode : Word
  frequency : Word
  txpower : Word
  pcnf0 : Word
  pcnf1 : Word
  base0 : Word
  prefix0 : Word
  txaddress : Word
  crccnf : Word
  crcpoly : Word
  crcinit : Word
  datawhiteiv : Word
  packetptr : Option Word
  shorts : Word
  inten : Word
  eventsReady : Bool
  eventsEnd : Bool
  rs : RadioState
  deriving DecidableEq, Repr

/-! ## TIMER -/

/-- The TIMER's registers (R44 to R50), its counter (R51) and its running flag (R52). -/
structure Timer where
  mode : Word
  bitmode : Word
  prescaler : Word
  cc : Word
  eventsCompare0 : Bool
  shorts : Word
  inten : Word
  count : Word
  running : Bool
  deriving DecidableEq, Repr

/-! ## RAM, log, parameters -/

/-- RAM as a list of (address, byte) pairs, addresses strictly rising, no entry equal to what an unlisted address reads as
(20_memory.md R70, R73). -/
abbrev Memory := List Host.Cell

/-- A progress report (45_transmit_loop.md R234). -/
structure Report where
  count : Word
  deriving DecidableEq, Repr

/-- The open parameters a run is made with (00_scope.md R8): `NAME`, `BUF_ADDR`, and `K` (`none` is `inf`). No step writes
them (notes/assumptions/4.md). -/
structure Params where
  name : List Byte
  bufBase : Word
  loopBound : Option Nat
  deriving DecidableEq, Repr

/-! ## The state -/

/-- The machine state (R20), with the run's parameters, the text of a foreign driver program, the agents that move next, and
the count of free choices made (notes/assumptions/6.md, 22.md). -/
structure State where
  drv : Driver
  radio : Radio
  timer : Timer
  ram : Memory
  air : List AirFrame
  log : List Report
  fault : Option FaultMark
  params : Params
  text : List TextLine
  turns : List Agent
  clock : Nat
  deriving DecidableEq, Repr

/-- Why the machine stops. -/
inductive Fault
  /-- Raised by `step` alone, in a state whose fault mark is set: "no agent steps in a faulted state" (R54, R246). Safe: the
  spec gives no step there. -/
  | faulted (m : FaultMark)
  /-- `H_FATAL` (R252), raised by `step` alone when the DRIVER is halted and neither the RADIO nor the TIMER has a step
  (R235). Safe: the spec gives no step there. -/
  | fatalHalt
  deriving DecidableEq, Repr

/-- Why an operation has no meaning in this model. -/
inductive Refusal
  /-- An arm of `exec` without a meaning yet, by the row's mnemonic; raised by `exec` alone. Safe. No arm answers it now. -/
  | notModelled (mnemonic : String)
  deriving DecidableEq, Repr

/-- What a meaning and a step answer. -/
abbrev Result := Host.Outcome State Fault Refusal

/-! ## Launch (R57, 70_reset_and_hazards.md R271) -/

/-- The DRIVER at launch (R21, R57). -/
def Driver.reset : Driver :=
  { bufAddr := none
    pduLen := none
    txCount := none
    nMs := none
    v := none
    configured := false
    timerReady := false
    mode := .running
    seq := ⟨.main, 1, 0⟩
    callers := []
    r := none
    iter := none }

/-- The RADIO at launch. Configuration registers and event flags are draws in the spec (R57, R271); the values here are the
part's power-on values beside R24 to R39. PRESUMED, notes/assumptions/2.md. -/
def Radio.reset : Radio :=
  { mode := 0x00000000
    frequency := 0x00000002
    txpower := 0x00000000
    pcnf0 := 0x00000000
    pcnf1 := 0x00000000
    base0 := 0x00000000
    prefix0 := 0x00000000
    txaddress := 0x00000000
    crccnf := 0x00000000
    crcpoly := 0x00000000
    crcinit := 0x00000000
    datawhiteiv := 0x00000040
    packetptr := none
    shorts := 0x00000000
    inten := 0x00000000
    eventsReady := false
    eventsEnd := false
    rs := .idle }

/-- The TIMER at launch: the part's power-on values beside R44 to R49 (PRESUMED, notes/assumptions/2.md); `count` is a draw
without a part value (DESIGN CHOICE, notes/assumptions/3.md). -/
def Timer.reset : Timer :=
  { mode := 0x00000000
    bitmode := 0x00000000
    prescaler := 0x00000004
    cc := 0x00000000
    eventsCompare0 := false
    shorts := 0x00000000
    inten := 0x00000000
    count := 0x00000000
    running := false }

/-- The parameters of the run from reset: `NAME = "microbit"`, `BUF_ADDR = 0x20000100`, `K = inf`. DESIGN CHOICE,
notes/assumptions/4.md. -/
def Params.reset : Params :=
  { name := [0x6D, 0x69, 0x63, 0x72, 0x6F, 0x62, 0x69, 0x74]
    bufBase := 0x20000100
    loopBound := none }

/-- The state at launch. -/
def State.reset : State :=
  { drv := .reset
    radio := .reset
    timer := .reset
    ram := []
    air := []
    log := []
    fault := none
    params := .reset
    text := []
    turns := []
    clock := 0 }

end Sys2Proof.Machine
end

