-- ==== Sys2Proof/Machine/Ops.lean ====
section
/-!
DEFINITION. The named operations over the state: raising a fault (60_exceptions.md R246, R256), the sequence pointer (10_state.md
R22), RAM (20_memory.md R70 to R73), and the passing of the turn.
-/

namespace Sys2Proof.Machine

/-! ## Raising a fault

There is no trap, no saved state and no return from a fault (R256, R257): raising one sets the fault mark and changes nothing
else, and the first fault is kept. -/

/-- Sets the fault mark; the first one is kept (R246, R54). -/
def State.raise (m : FaultMark) (s : State) : State :=
  match s.fault with
  | none => { s with fault := some m }
  | some _ => s

/-- A DRIVER step that ends in a fault (R256): the state with the mark, no other effect. -/
def fail (m : FaultMark) (s : State) : Result := .next (s.raise m)

/-- The code table of R246. -/
def FaultMark.code : FaultMark → Nat
  | .unadmitted _ _ => 2
  | .unadmittedCall _ => 2
  | .unadmittedVar _ => 2
  | .dmaRace _ => 3
  | .badPacketptr _ => 4
  | .delayOverflow _ => 5
  | .sequence _ => 6

/-- The code of an `encode` error (R245, R246). -/
def EncodeResult.code : EncodeResult → Option Nat
  | .ok _ _ => none
  | .nameTooLong _ => some 1

/-- The code of a stop of the machine (R246, R252). -/
def Fault.code : Fault → Nat
  | .faulted m => m.code
  | .fatalHalt => 7

/-! ## The sequence pointer (R22) -/

/-- How many single steps a line of `encode` lists (43_pdu_encoder.md R185). -/
def encodeSteps (name : List Byte) (line : Nat) : Nat :=
  match line with
  | 4 => 6
  | 5 => 3
  | 6 => 2
  | 7 => name.length
  | _ => 1

/-- The line of `encode` after a finished line: line 7 has no step for an empty name (R185). -/
def encodeLineAfter (name : List Byte) (line : Nat) : Nat :=
  if line = 6 ∧ name = [] then 8 else line + 1

/-- The next step of the same procedure (R22). -/
def Seq.next (q : Seq) : Seq :=
  match q.proc with
  | .encode name =>
    if q.sub + 1 < encodeSteps name q.line then { q with sub := q.sub + 1 }
    else { q with line := encodeLineAfter name q.line, sub := 0 }
  | _ => { q with line := q.line + 1, sub := 0 }

/-- Moves the sequence pointer. -/
def State.setSeq (q : Seq) (s : State) : State := { s with drv := { s.drv with seq := q } }

/-- `seq <- next(seq)` (R22). -/
def State.advance (s : State) : State := s.setSeq s.drv.seq.next

/-- The first line of a procedure's pseudocode. -/
def Proc.firstLine : Proc → Nat
  | .main => 1
  | .configure => 0
  | .transmit _ => 0
  | .encode _ => 1
  | .timerInit => 1
  | .delayMs _ => 0
  | .halt => 1
  | .foreign => 0

/-- `CALL`: the DRIVER goes to the procedure's first line and remembers the caller's next step (R22, R97). -/
def State.enter (p : Proc) (s : State) : State :=
  { s with drv := { s.drv with seq := ⟨p, p.firstLine, 0⟩, callers := s.drv.seq.next :: s.drv.callers } }

/-- The position at which the DRIVER has exited (45_transmit_loop.md R230 line 13). -/
def Seq.exit : Seq := ⟨.main, 13, 0⟩

/-- `return`: a procedure's last step goes to the caller's next step (R22). Without a caller the DRIVER has no further step
(DESIGN CHOICE, notes/assumptions/23.md). -/
def State.ret (s : State) : State :=
  match s.drv.callers with
  | q :: rest => { s with drv := { s.drv with seq := q, callers := rest } }
  | [] => s.setSeq Seq.exit

/-! ## RAM -/

/-- What an address that is not listed reads as: the zero-initialised buffer (20_memory.md R72); for the rest of RAM, a draw
of the spec (R57), DESIGN CHOICE, notes/assumptions/5.md. -/
def Memory.unlisted : Byte := 0

/-- The byte at an address (R73). -/
def Memory.read : Memory → Nat → Byte
  | [], _ => Memory.unlisted
  | (a, b) :: rest, x => if a = x then b else Memory.read rest x

/-- Sets one byte and keeps the list canonical (R73). -/
def Memory.write : Memory → Nat → Byte → Memory
  | [], x, v => if v = Memory.unlisted then [] else [(x, v)]
  | (a, b) :: rest, x, v =>
    if x < a then (if v = Memory.unlisted then (a, b) :: rest else (x, v) :: (a, b) :: rest)
    else if x = a then (if v = Memory.unlisted then rest else (x, v) :: rest)
    else (a, b) :: Memory.write rest x v

/-- `MemRead(addr, n)` (R73). -/
def Memory.readBytes (m : Memory) (a : Nat) : Nat → List Byte
  | 0 => []
  | n + 1 => Memory.read m a :: Memory.readBytes m (a + 1) n

/-- `MemWrite(addr, |v|, v)` (R73), byte by byte in address order. -/
def Memory.writeBytes (m : Memory) (a : Nat) : List Byte → Memory
  | [] => m
  | v :: vs => Memory.writeBytes (Memory.write m a v) (a + 1) vs

/-- Canonical from an address on: addresses strictly rising, no byte equal to what an unlisted address reads as. -/
def Memory.wfFrom : Nat → Memory → Bool
  | _, [] => true
  | lo, (a, b) :: rest => decide (lo ≤ a) && decide (b ≠ Memory.unlisted) && Memory.wfFrom (a + 1) rest

/-- The canonical form of a memory. -/
def Memory.wf (m : Memory) : Bool := Memory.wfFrom 0 m

/-- An address of the RAM window `[RAM_LO, RAM_HI]` (R70). -/
def inRam (a : Nat) : Bool := decide (Config.ramLo ≤ a) && decide (a ≤ Config.ramHi)

/-- Every listed address lies in the RAM window. -/
def Memory.inWindow (m : Memory) : Bool := m.all (fun c => inRam c.1)

/-! ## Turns -/

/-- The agent that moves next: the first of `turns`, and where none is listed a free choice (R11). -/
def State.nextAgent (s : State) : Agent :=
  match s.turns with
  | a :: _ => a
  | [] => Config.schedule s.clock

/-- The turn passes: the choice made is used up. -/
def State.passTurn (s : State) : State := { s with turns := s.turns.tail, clock := s.clock + 1 }

/-- Passes the turn after a step that has a next state. -/
def passTurnOf : Result → Result
  | .next s => .next s.passTurn
  | .fault f => .fault f
  | .refused r => .refused r

end Sys2Proof.Machine
end

