-- ==== Sys2Proof/Machine/Operands.lean ====
section
/-!
DEFINITION. The operand forms: the logical fields the hardware reads from the register words (10_state.md R24 to R47), and the
data words the DRIVER assembles at run time (30_encoding.md R106).
-/

namespace Sys2Proof.Machine

/-- The field of `width` bits of a register word from bit `lo` on, as an unsigned number (00_scope.md R9). -/
def field (w : Word) (lo width : Nat) : Nat := (w.extractLsb' lo width).toNat

/-! ## RADIO fields -/

/-- `FREQUENCY`: the base of `MAP` and the offset field, in MHz (R25). -/
def Radio.freqMhz (r : Radio) : Nat := (if r.frequency.getLsbD 8 then 2360 else 2400) + field r.frequency 0 7

/-- `TXPOWER[7:0]`, two's complement dBm (R26). -/
def Radio.txpowerDbm (r : Radio) : Int := (r.txpower.setWidth 8).toInt

/-- `PCNF1.MAXLEN` (R28). -/
def Radio.maxlen (r : Radio) : Nat := field r.pcnf1 0 8

/-- The 3-byte base of the address: `BASE0[31:8]` (R29). -/
def Radio.base (r : Radio) : BitVec 24 := r.base0.extractLsb' 8 24

/-- `PREFIX0.AP0` (R30). -/
def Radio.addressHigh (r : Radio) : Byte := r.prefix0.setWidth 8

/-- The access address `(prefix << 24) OR base` (40_radio_configure.md R131). -/
def Radio.accessAddress (r : Radio) : Word := r.addressHigh ++ r.base

/-- `CRCPOLY[23:0]` (R33). -/
def Radio.poly (r : Radio) : BitVec 24 := r.crcpoly.setWidth 24

/-- `CRCINIT[23:0]` (R34). -/
def Radio.crcInitial (r : Radio) : BitVec 24 := r.crcinit.setWidth 24

/-- `DATAWHITEIV[5:0]` (R35). -/
def Radio.whiteIv (r : Radio) : BitVec 6 := r.datawhiteiv.setWidth 6

/-- What `DATAWHITEIV` holds after a write: the channel index, with bit 6 hardwired to 1 and bits 31:7 reserved (R35, R127). -/
def storedWhiteIv (data : Word) : Word := (data &&& 0x0000003F) ||| 0x00000040

/-- The configuration registers in the order of `configure`'s lines 1 to 12 (R115). -/
def Radio.configWords (r : Radio) : List Word :=
  [r.mode, r.frequency, r.pcnf0, r.pcnf1, r.base0, r.prefix0, r.txaddress, r.crccnf, r.crcpoly, r.crcinit, r.txpower,
    r.datawhiteiv]

/-- What those registers hold after `configure` (R115, R130). -/
def blockConfigWords : List Word :=
  [wordRadioMode, wordRadioFrequency, wordRadioPcnf0, wordRadioPcnf1, wordRadioBase0, wordRadioPrefix0, wordRadioTxaddress,
    wordRadioCrccnf, wordRadioCrcpoly, wordRadioCrcinit, wordRadioTxpower, storedWhiteIv wordRadioDatawhiteiv]

/-- The radio holds the block's configuration (R130). -/
def Radio.blockConfigured (r : Radio) : Bool := decide (r.configWords = blockConfigWords)

/-- The latch: no value outside `Transmitting` (R43). -/
def Radio.latch (r : Radio) : Option (List Byte) :=
  match r.rs with
  | .transmitting l => some l.bytes
  | _ => none

/-- What the part's `STATE` register reads in each state (R42); no operation reads it. -/
def RadioState.stateRegister : RadioState → Nat
  | .idle => 0
  | .enabling => 9
  | .ready => 10
  | .transmitting _ => 11
  | .ended => 10
  | .disabled => 12

/-! ## TIMER fields -/

/-- The counter width `W` of `BITMODE[1:0]` (R45). -/
def Timer.width (t : Timer) : Nat :=
  match field t.bitmode 0 2 with
  | 0 => 16
  | 1 => 8
  | 2 => 24
  | _ => 32

/-- The tick rate of `PRESCALER[3:0]`: 16 MHz / 2^PRESCALER (R46). -/
def Timer.tickHz (t : Timer) : Nat := 16000000 / 2 ^ field t.prescaler 0 4

/-- `TIMER.MODE` is `Timer` (R44). -/
def Timer.countsTicks (t : Timer) : Bool := decide (field t.mode 0 2 = 0)

/-! ## Run-time operands (R106) -/

/-- The data word of an `STB`: one byte in `data[7:0]` (R96, R106). -/
def byteData (b : Byte) : Word := b.setWidth 32

/-- The byte an `STB`'s data word carries (R96). -/
def dataByte (data : Word) : Byte := data.setWidth 8

/-- The compare target `n * 1000`, exact; none where it does not fit in 32 bits (R106, 44_delay_timer.md R222). -/
def compareTarget (n : Word) : Option Word :=
  if 2 ^ 32 ≤ n.toNat * 1000 then none else some (BitVec.ofNat 32 (n.toNat * 1000))

end Sys2Proof.Machine
end

