-- ==== Sys2Proof/Machine/Packet.lean ====
section
/-!
DEFINITION. On-air packet framing (42_radio_packet.md): bit order, CRC, whitening and the frame the RADIO's `TxDone` step
appends to the air trace.
-/

namespace Sys2Proof.Machine

/-! ## Bits (R170) -/

/-- The bits of a byte, least significant first. -/
def byteBits (b : Byte) : List Bool := (List.range 8).map (fun k => b.getLsbD k)

/-- The bits of a byte list, in list order. -/
def bitsOf (bytes : List Byte) : List Bool := bytes.flatMap byteBits

/-! ## CRC (R172, R173) -/

/-- One bit through the CRC register. -/
def crcStep (poly : BitVec 24) (c : BitVec 24) (d : Bool) : BitVec 24 :=
  if xor (c.getLsbD 23) d then (c <<< 1) ^^^ poly else c <<< 1

/-- `CRC24` over a bit list in transmission order. -/
def crc24 (poly initial : BitVec 24) (ds : List Bool) : BitVec 24 := ds.foldl (crcStep poly) initial

/-- One bit through the bit-reversed register of R172's equivalent form. -/
def crcReflectedStep (poly : BitVec 24) (r : BitVec 24) (d : Bool) : BitVec 24 :=
  if xor (r.getLsbD 0) d then (r >>> 1) ^^^ poly else r >>> 1

/-- R172's equivalent form for the block's polynomial and initial value. -/
def crc24Reflected (ds : List Bool) : BitVec 24 := ds.foldl (crcReflectedStep 0xDA6000) 0xAAAAAA

/-- The 24 CRC bits on air, most significant first (R173). -/
def crcBits (c : BitVec 24) : List Bool := (List.range 24).map (fun k => c.getLsbD (23 - k))

/-! ## Whitening (R175) -/

/-- The whitening register after one bit. -/
def whitenNext (s : BitVec 8) : BitVec 8 := if s.getLsbD 0 then (s ^^^ 0x88) >>> 1 else s >>> 1

/-- Whitening from a register value on. -/
def whitenFrom : BitVec 8 → List Bool → List Bool
  | _, [] => []
  | s, x :: xs => xor x (s.getLsbD 0) :: whitenFrom (whitenNext s) xs

/-- `whiten(bitlist, iv)`: the register starts at `0x40 OR iv`. -/
def whiten (iv : BitVec 6) (xs : List Bool) : List Bool := whitenFrom (0x40 ||| iv.setWidth 8) xs

/-! ## The frame (R165, R177) -/

/-- The preamble byte (R166). -/
def preambleByte : Byte := 0xAA

/-- The access address as it goes on air, least significant byte first (R167). -/
def addressBytes (aa : Word) : List Byte :=
  [aa.extractLsb' 0 8, aa.extractLsb' 8 8, aa.extractLsb' 16 8, aa.extractLsb' 24 8]

/-- The whitened part: the PDU bits and their CRC bits (R174). -/
def frameBody (poly crcInitial : BitVec 24) (iv : BitVec 6) (latch : List Byte) : List Bool :=
  whiten iv (bitsOf latch ++ crcBits (crc24 poly crcInitial (bitsOf latch)))

/-- The frame's bits for the radio's address, CRC and whitening settings. -/
def frameBits (aa : Word) (poly crcInitial : BitVec 24) (iv : BitVec 6) (latch : List Byte) : List Bool :=
  bitsOf [preambleByte] ++ bitsOf (addressBytes aa) ++ frameBody poly crcInitial iv latch

/-- `Frame(latch)` with the block's configuration (R177, R130). -/
def frame (latch : List Byte) : List Bool :=
  frameBits 0x8E89BED6 Config.physical.poly Config.physical.crcinit Config.physical.whiteIv latch

/-- What the radio sends for a latch: the frame its configuration registers describe, on their channel and at their power
(R132, R177, R178). A radio that does not hold the block's configuration sends a frame the spec gives no meaning (D47): a free
value, notes/assumptions/8.md. -/
def Radio.airFrame (r : Radio) (latch : List Byte) : AirFrame :=
  if r.blockConfigured then
    { bits := frameBits r.accessAddress r.poly r.crcInitial r.whiteIv latch
      freqMhz := r.freqMhz
      txpowerDbm := r.txpowerDbm }
  else Config.foreignFrame r.configWords latch

end Sys2Proof.Machine
end

