-- ==== Sys2Proof/Machine/Agents.lean ====
section
/-!
DEFINITION. The steps of the two hardware agents: the RADIO's `RampUpDone`, `TxDone` and `DisableDone` (41_radio_transmit.md R138,
R140, R142) and the TIMER's `Tick` (44_delay_timer.md R212).
-/

namespace Sys2Proof.Machine

/-- The RADIO has a step in `Enabling`, `Transmitting` and `Disabled`. -/
def radioEnabled (s : State) : Bool :=
  match s.radio.rs with
  | .enabling => true
  | .transmitting _ => true
  | .disabled => true
  | .idle => false
  | .ready => false
  | .ended => false

/-- `RampUpDone` (R138): `EVENTS_READY <- 1`, `Ready`. -/
def rampUpDone (s : State) : State := { s with radio := { s.radio with eventsReady := true, rs := .ready } }

/-- `TxDone` (R140): the frame is appended to the air trace in the step that sets `EVENTS_END`; the latch holds no value after. -/
def txDone (l : Latch) (s : State) : State :=
  { s with
    air := s.air ++ [s.radio.airFrame l.bytes]
    radio := { s.radio with eventsEnd := true, rs := .ended } }

/-- `DisableDone` (R142): `Idle`. -/
def disableDone (s : State) : State := { s with radio := { s.radio with rs := .idle } }

/-- The RADIO's step in the state it is in. -/
def radioStep (s : State) : State :=
  match s.radio.rs with
  | .enabling => rampUpDone s
  | .transmitting l => txDone l s
  | .disabled => disableDone s
  | .idle => s
  | .ready => s
  | .ended => s

/-- The counter after one tick, modulo `2^W` (R212). -/
def Timer.nextCount (t : Timer) : Word := BitVec.ofNat 32 ((t.count.toNat + 1) % 2 ^ t.width)

/-- The tick that makes the counter equal to the target (R212); for a width other than 32 the target is compared on its low `W`
bits (R206; PRESUMED, notes/assumptions/10.md). -/
def Timer.tickReaches (t : Timer) : Bool := decide (t.nextCount.toNat = t.cc.toNat % 2 ^ t.width)

/-- `Tick` (R212); enabled while the timer runs (R52). -/
def tick (s : State) : State :=
  { s with
    timer := { s.timer with
      count := s.timer.nextCount
      eventsCompare0 := s.timer.eventsCompare0 || s.timer.tickReaches } }

end Sys2Proof.Machine
end

