-- ==== Sys2Proof/Machine/Flags.lean ====
section
/-!
DEFINITION. The block's flags: the three one-bit event registers (10_state.md R39, R49). An agent's step sets one, a write of 0
clears it (30_encoding.md R101), a read returns it zero-extended and changes nothing else (20_memory.md R83).
-/

namespace Sys2Proof.Machine

/-- The value of an event register: its flag zero-extended to 32 bits (R143, R145). -/
def flagWord (flag : Bool) : Word := if flag then 1 else 0

/-- The flag of an event register. -/
def State.eventFlag (s : State) : Event → Bool
  | .radioReady => s.radio.eventsReady
  | .radioEnd => s.radio.eventsEnd
  | .timerCompare0 => s.timer.eventsCompare0

/-- `v <- zext_32(flag)`, and the DRIVER goes on (R143, R145, R147, R214). -/
def readEvent (e : Event) (s : State) : Result :=
  .next ({ s with drv := { s.drv with v := some (flagWord (s.eventFlag e)) } }).advance

/-- A write to an event register: only 0 is admitted, and it clears the flag (R101). -/
def clearEvent (addr data : Word) (cleared : State) (s : State) : Result :=
  if data ≠ clearWord then fail (.unadmitted ⟨.write, addr, data⟩ .value) s
  else .next cleared.advance

end Sys2Proof.Machine
end

