-- ==== Sys2Proof/Machine/DelayTimer.lean ====
section
/-!
DEFINITION. The hardware timer (44_delay_timer.md): configuration writes, tasks, the compare register and event, `CALL timer_init`
and `CALL delay_ms`.
-/

namespace Sys2Proof.Machine

/-- A write to a timer configuration register: the timer must be stopped (R215), then the data word must be the block's (R99). -/
def timerConfigWrite (addr admitted data : Word) (stored : Timer) (s : State) : Result :=
  if s.timer.running then fail (.unadmitted ⟨.write, addr, data⟩ .configWhileTimerRuns) s
  else if data ≠ admitted then fail (.unadmitted ⟨.write, addr, data⟩ .value) s
  else .next ({ s with timer := stored }).advance

/-- A write to a timer task register: admitted in every timer state, with data 1 only (R100). -/
def timerTask (addr data : Word) (started : Timer) (s : State) : Result :=
  if data ≠ taskWord then fail (.unadmitted ⟨.write, addr, data⟩ .value) s
  else .next ({ s with timer := started }).advance

/-- `WR TIMER.MODE` (R205). -/
def execWrTimerMode (data : Word) (s : State) : Result :=
  timerConfigWrite addrTimerMode wordTimerMode data { s.timer with mode := data } s

/-- `WR TIMER.BITMODE` (R206). -/
def execWrTimerBitmode (data : Word) (s : State) : Result :=
  timerConfigWrite addrTimerBitmode wordTimerBitmode data { s.timer with bitmode := data } s

/-- `WR TIMER.PRESCALER` (R207). -/
def execWrTimerPrescaler (data : Word) (s : State) : Result :=
  timerConfigWrite addrTimerPrescaler wordTimerPrescaler data { s.timer with prescaler := data } s

/-- `TRIG TIMER.TASKS_CLEAR` (R208): the counter to 0; it sets no event. -/
def execTrigTimerClear (data : Word) (s : State) : Result :=
  timerTask addrTimerTasksClear data { s.timer with count := 0 } s

/-- `TRIG TIMER.TASKS_START` (R209). -/
def execTrigTimerStart (data : Word) (s : State) : Result :=
  timerTask addrTimerTasksStart data { s.timer with running := true } s

/-- `TRIG TIMER.TASKS_STOP` (R210). -/
def execTrigTimerStop (data : Word) (s : State) : Result :=
  timerTask addrTimerTasksStop data { s.timer with running := false } s

/-- `WR TIMER.CC0, t` (R211): any word; it sets no event. -/
def execWrTimerCc0 (t : Word) (s : State) : Result :=
  .next ({ s with timer := { s.timer with cc := t } }).advance

/-- `CLR TIMER.EVENTS_COMPARE0` (R213). -/
def execClrTimerCompare0 (data : Word) (s : State) : Result :=
  clearEvent addrTimerEventsCompare0 data { s with timer := { s.timer with eventsCompare0 := false } } s

/-- `RD TIMER.EVENTS_COMPARE0` (R214). -/
def execRdTimerCompare0 (s : State) : Result := readEvent .timerCompare0 s

/-- `CALL timer_init` (R220): the procedure's lines are the DRIVER's next steps. -/
def execCallTimerInit (s : State) : Result := .next (s.enter .timerInit)

/-- `CALL delay_ms(n)` (R221): the procedure's lines are the DRIVER's next steps. -/
def execCallDelayMs (n : Word) (s : State) : Result := .next (s.enter (.delayMs n))

end Sys2Proof.Machine
end

