-- ==== Sys2Proof/Machine/Encoder.lean ====
section
/-!
DEFINITION. The advertising PDU encoder (43_pdu_encoder.md): `STB`, the layout of the PDU, the stores of `encode`, and
`CALL encode`.
-/

namespace Sys2Proof.Machine

/-- An address of the packet latched by the current `START`: `ptr <= a < ptr + 2 + L` while `Transmitting` (R199, 20_memory.md R88). -/
def racesLatch (s : State) (a : Word) : Bool :=
  match s.radio.rs with
  | .transmitting l => decide (l.ptr.toNat ≤ a.toNat) && decide (a.toNat < l.ptr.toNat + l.bytes.length)
  | _ => false

/-- `STB a, b` (R199): `data[31:8]` must be 0 (R96; DEDUCED as a value check, notes/assumptions/17.md), the address must lie in the
RAM window, and not in the packet being sent. -/
def execStb (addr data : Word) (s : State) : Result :=
  if 256 ≤ data.toNat then fail (.unadmitted ⟨.write, addr, data⟩ .value) s
  else if inRam addr.toNat = false then fail (.unadmitted ⟨.write, addr, data⟩ .address) s
  else if racesLatch s addr then fail (.dmaRace addr) s
  else .next ({ s with ram := Memory.write s.ram addr.toNat (dataByte data) }).advance

/-! ## The PDU (R186 to R190) -/

/-- The header byte (R186). -/
def headerByte : Byte := 0x42

/-- The advertiser address in buffer order (R188). -/
def advertiserAddress : List Byte := [0xAA, 0xBB, 0xCC, 0xDD, 0xEE, 0xFF]

/-- The Flags AD structure (R189). -/
def flagsAd : List Byte := [0x02, 0x01, 0x06]

/-- Length and type of the Complete Local Name AD structure (R190). -/
def nameAdHeader (name : List Byte) : List Byte := [BitVec.ofNat 8 (name.length + 1), 0x09]

/-- How many bytes `encode` writes: `w = 13 + n` (R192). -/
def pduLength (name : List Byte) : Nat := 13 + name.length

/-- The length byte: `(w - payload_start) + 6 = 11 + n` (R185 line 8, R187). -/
def lengthByte (name : List Byte) : Byte := BitVec.ofNat 8 (pduLength name - 8 + 6)

/-- The encoder's output as a function of the name (R196). -/
def encodeBytes (name : List Byte) : List Byte :=
  [headerByte, lengthByte name] ++ advertiserAddress ++ flagsAd ++ nameAdHeader name ++ name

/-- The name fits: `|name| <= NAME_MAX` (R191). -/
def nameFits (name : List Byte) : Bool := decide (name.length ≤ Config.nameMax)

/-- The bytes a line of `encode` stores, and the buffer offset of the first (R185 lines 2 to 8). -/
def encodeLineBytes (name : List Byte) (line : Nat) : Option (Nat × List Byte) :=
  match line with
  | 2 => some (0, [headerByte])
  | 3 => some (1, [0x00])
  | 4 => some (2, advertiserAddress)
  | 5 => some (8, flagsAd)
  | 6 => some (11, nameAdHeader name)
  | 7 => some (13, name)
  | 8 => some (1, [lengthByte name])
  | _ => none

/-- The `STB` at a step of `encode`, for a buffer at `base` (R185). -/
def encodeStb (base : Word) (name : List Byte) (line sub : Nat) : Option Instr :=
  match encodeLineBytes name line with
  | none => none
  | some (offset, bytes) =>
    match bytes[sub]? with
    | none => none
    | some b => some (.stb (base + BitVec.ofNat 32 (offset + sub)) (byteData b))

/-- `CALL encode(name)` (R185): the procedure's lines are the DRIVER's next steps. -/
def execCallEncode (name : List Byte) (s : State) : Result := .next (s.enter (.encode name))

end Sys2Proof.Machine
end

