-- ==== Sys2Proof/Machine/Loop.lean ====
section
/-!
DEFINITION. The transmit loop's own operations (45_transmit_loop.md): `CALL main`, `HALT`, and the progress report.
-/

namespace Sys2Proof.Machine

/-- `CALL main` (R230): the procedure's lines are the DRIVER's next steps. -/
def execCallMain (s : State) : Result := .next (s.enter .main)

/-- `HALT` (R235): `drv.mode <- Halted`; the DRIVER is in the procedure `halt`, which never leaves its step (10_state.md R22). -/
def execHalt (s : State) : Result :=
  .next { s with drv := { s.drv with mode := .halted, seq := ⟨.halt, 1, 0⟩ } }

/-- `emit Log(Report(c))` (R234): the report is appended or dropped, a free choice (D42; notes/assumptions/7.md). -/
def State.emitReport (c : Word) (s : State) : State :=
  if Config.logKept s.clock then { s with log := s.log ++ [⟨c⟩] } else s

end Sys2Proof.Machine
end

