-- ==== Sys2Proof/Machine/RadioConfigure.lean ====
section
/-!
DEFINITION. Radio physical-layer configuration (40_radio_configure.md): the twelve configuration writes and `CALL configure`.
-/

namespace Sys2Proof.Machine

/-- A write to a radio configuration register: the radio must be `Idle` (R128), then the data word must be the block's (R99); it
stores the word and does nothing else (20_memory.md R83). -/
def configWrite (addr admitted data : Word) (stored : Radio) (s : State) : Result :=
  if s.radio.rs ≠ .idle then fail (.unadmitted ⟨.write, addr, data⟩ .configWhileRadioBusy) s
  else if data ≠ admitted then fail (.unadmitted ⟨.write, addr, data⟩ .value) s
  else .next ({ s with radio := stored }).advance

/-- `WR RADIO.MODE` (R116). -/
def execWrRadioMode (data : Word) (s : State) : Result :=
  configWrite addrRadioMode wordRadioMode data { s.radio with mode := data } s

/-- `WR RADIO.TXPOWER` (R117). -/
def execWrRadioTxpower (data : Word) (s : State) : Result :=
  configWrite addrRadioTxpower wordRadioTxpower data { s.radio with txpower := data } s

/-- `WR RADIO.FREQUENCY` (R118). -/
def execWrRadioFrequency (data : Word) (s : State) : Result :=
  configWrite addrRadioFrequency wordRadioFrequency data { s.radio with frequency := data } s

/-- `WR RADIO.PCNF0` (R119). -/
def execWrRadioPcnf0 (data : Word) (s : State) : Result :=
  configWrite addrRadioPcnf0 wordRadioPcnf0 data { s.radio with pcnf0 := data } s

/-- `WR RADIO.PCNF1` (R120). -/
def execWrRadioPcnf1 (data : Word) (s : State) : Result :=
  configWrite addrRadioPcnf1 wordRadioPcnf1 data { s.radio with pcnf1 := data } s

/-- `WR RADIO.BASE0` (R121). -/
def execWrRadioBase0 (data : Word) (s : State) : Result :=
  configWrite addrRadioBase0 wordRadioBase0 data { s.radio with base0 := data } s

/-- `WR RADIO.PREFIX0` (R122). -/
def execWrRadioPrefix0 (data : Word) (s : State) : Result :=
  configWrite addrRadioPrefix0 wordRadioPrefix0 data { s.radio with prefix0 := data } s

/-- `WR RADIO.TXADDRESS` (R123). -/
def execWrRadioTxaddress (data : Word) (s : State) : Result :=
  configWrite addrRadioTxaddress wordRadioTxaddress data { s.radio with txaddress := data } s

/-- `WR RADIO.CRCCNF` (R124). -/
def execWrRadioCrccnf (data : Word) (s : State) : Result :=
  configWrite addrRadioCrccnf wordRadioCrccnf data { s.radio with crccnf := data } s

/-- `WR RADIO.CRCPOLY` (R125). -/
def execWrRadioCrcpoly (data : Word) (s : State) : Result :=
  configWrite addrRadioCrcpoly wordRadioCrcpoly data { s.radio with crcpoly := data } s

/-- `WR RADIO.CRCINIT` (R126). -/
def execWrRadioCrcinit (data : Word) (s : State) : Result :=
  configWrite addrRadioCrcinit wordRadioCrcinit data { s.radio with crcinit := data } s

/-- `WR RADIO.DATAWHITEIV` (R127; bit 6 of the register is hardwired to 1). -/
def execWrRadioDatawhiteiv (data : Word) (s : State) : Result :=
  configWrite addrRadioDatawhiteiv wordRadioDatawhiteiv data { s.radio with datawhiteiv := storedWhiteIv data } s

/-- `CALL configure` (R115): the procedure's lines are the DRIVER's next steps. -/
def execCallConfigure (s : State) : Result := .next (s.enter .configure)

end Sys2Proof.Machine
end

