-- ==== Sys2Proof/Machine/RadioTransmit.lean ====
section
/-!
DEFINITION. Radio transmit sequencing (41_radio_transmit.md): the packet pointer, the three tasks, the event operations and
`CALL transmit`.
-/

namespace Sys2Proof.Machine

/-- `WR RADIO.PACKETPTR, a` (R136): admitted in every radio state, checked only at `START`. -/
def execWrRadioPacketptr (a : Word) (s : State) : Result :=
  .next ({ s with radio := { s.radio with packetptr := some a } }).advance

/-- `TRIG RADIO.TASKS_TXEN` (R137). In `Disabled` the write holds: nothing happens and the DRIVER stays at this step until
`DisableDone` has moved the radio to `Idle`. State before value (60_exceptions.md R255); a word other than 1 does not hold
(DEDUCED, notes/assumptions/15.md). -/
def execTrigRadioTxen (data : Word) (s : State) : Result :=
  match s.radio.rs with
  | .idle =>
    if data ≠ taskWord then fail (.unadmitted ⟨.write, addrRadioTasksTxen, data⟩ .value) s
    else .next ({ s with radio := { s.radio with rs := .enabling } }).advance
  | .disabled =>
    if data ≠ taskWord then fail (.unadmitted ⟨.write, addrRadioTasksTxen, data⟩ .value) s
    else .next s
  | .enabling => fail (.unadmitted ⟨.write, addrRadioTasksTxen, data⟩ .txenWhileRadioBusy) s
  | .ready => fail (.unadmitted ⟨.write, addrRadioTasksTxen, data⟩ .txenWhileRadioBusy) s
  | .transmitting _ => fail (.unadmitted ⟨.write, addrRadioTasksTxen, data⟩ .txenWhileRadioBusy) s
  | .ended => fail (.unadmitted ⟨.write, addrRadioTasksTxen, data⟩ .txenWhileRadioBusy) s

/-- The payload length the radio takes from RAM: `min(ram[ptr+1], MAXLEN)` (R139, 42_radio_packet.md R168; `MAXLEN` read from
`PCNF1` at `START`, R132; DEDUCED, notes/assumptions/9.md). -/
def payloadLength (s : State) (ptr : Word) : Nat := min (Memory.read s.ram (ptr.toNat + 1)).toNat s.radio.maxlen

/-- The checks of `START` on the pointer (R139, 20_memory.md R81): a multiple of 4, the two header bytes in the RAM window, then the
packet's end in the window. -/
def packetInRam (s : State) (ptr : Word) : Bool :=
  decide (ptr.toNat % 4 = 0) && decide (Config.ramLo ≤ ptr.toNat) && decide (ptr.toNat + 1 ≤ Config.ramHi)
    && decide (ptr.toNat + 1 + payloadLength s ptr ≤ Config.ramHi)

/-- What `START` latches: `MemRead(ptr, 2 + L)` (R139). -/
def latchAt (s : State) (ptr : Word) : Latch :=
  ⟨ptr, Memory.readBytes s.ram ptr.toNat (2 + payloadLength s ptr)⟩

/-- `TRIG RADIO.TASKS_START` (R139). -/
def execTrigRadioStart (data : Word) (s : State) : Result :=
  if s.radio.rs ≠ .ready then fail (.unadmitted ⟨.write, addrRadioTasksStart, data⟩ .startOutsideReady) s
  else if data ≠ taskWord then fail (.unadmitted ⟨.write, addrRadioTasksStart, data⟩ .value) s
  else
    match s.radio.packetptr with
    | none => fail (.unadmitted ⟨.write, addrRadioTasksStart, data⟩ .packetptrUnwritten) s
    | some ptr =>
      if packetInRam s ptr then
        .next ({ s with radio := { s.radio with rs := .transmitting (latchAt s ptr) } }).advance
      else fail (.badPacketptr ptr) s

/-- `TRIG RADIO.TASKS_DISABLE` (R141). -/
def execTrigRadioDisable (data : Word) (s : State) : Result :=
  if s.radio.rs ≠ .ended then fail (.unadmitted ⟨.write, addrRadioTasksDisable, data⟩ .disableOutsideEnded) s
  else if data ≠ taskWord then fail (.unadmitted ⟨.write, addrRadioTasksDisable, data⟩ .value) s
  else .next ({ s with radio := { s.radio with rs := .disabled } }).advance

/-- `CLR RADIO.EVENTS_READY` (R144). -/
def execClrRadioReady (data : Word) (s : State) : Result :=
  clearEvent addrRadioEventsReady data { s with radio := { s.radio with eventsReady := false } } s

/-- `RD RADIO.EVENTS_READY` (R145). -/
def execRdRadioReady (s : State) : Result := readEvent .radioReady s

/-- `CLR RADIO.EVENTS_END` (R146). -/
def execClrRadioEnd (data : Word) (s : State) : Result :=
  clearEvent addrRadioEventsEnd data { s with radio := { s.radio with eventsEnd := false } } s

/-- `RD RADIO.EVENTS_END` (R147). -/
def execRdRadioEnd (s : State) : Result := readEvent .radioEnd s

/-- `CALL transmit(buf_addr)` (R148): the procedure's lines are the DRIVER's next steps. -/
def execCallTransmit (bufAddr : Word) (s : State) : Result := .next (s.enter (.transmit bufAddr))

end Sys2Proof.Machine
end

