-- ==== Sys2Proof/Machine/Dispatch.lean ====
section
/-!
DEFINITION. The dispatch of every operation to its meaning, one arm per constructor of `Instr`.
-/

namespace Sys2Proof.Machine

def exec (i : Instr) (s : State) : Host.Outcome State Fault Refusal :=
  match i with
  | .trigRadioTxen data => Sys2Proof.Machine.execTrigRadioTxen data s
  | .trigRadioStart data => Sys2Proof.Machine.execTrigRadioStart data s
  | .trigRadioDisable data => Sys2Proof.Machine.execTrigRadioDisable data s
  | .clrRadioReady data => Sys2Proof.Machine.execClrRadioReady data s
  | .rdRadioReady => Sys2Proof.Machine.execRdRadioReady s
  | .clrRadioEnd data => Sys2Proof.Machine.execClrRadioEnd data s
  | .rdRadioEnd => Sys2Proof.Machine.execRdRadioEnd s
  | .wrRadioPacketptr a => Sys2Proof.Machine.execWrRadioPacketptr a s
  | .wrRadioFrequency data => Sys2Proof.Machine.execWrRadioFrequency data s
  | .wrRadioTxpower data => Sys2Proof.Machine.execWrRadioTxpower data s
  | .wrRadioMode data => Sys2Proof.Machine.execWrRadioMode data s
  | .wrRadioPcnf0 data => Sys2Proof.Machine.execWrRadioPcnf0 data s
  | .wrRadioPcnf1 data => Sys2Proof.Machine.execWrRadioPcnf1 data s
  | .wrRadioBase0 data => Sys2Proof.Machine.execWrRadioBase0 data s
  | .wrRadioPrefix0 data => Sys2Proof.Machine.execWrRadioPrefix0 data s
  | .wrRadioTxaddress data => Sys2Proof.Machine.execWrRadioTxaddress data s
  | .wrRadioCrccnf data => Sys2Proof.Machine.execWrRadioCrccnf data s
  | .wrRadioCrcpoly data => Sys2Proof.Machine.execWrRadioCrcpoly data s
  | .wrRadioCrcinit data => Sys2Proof.Machine.execWrRadioCrcinit data s
  | .wrRadioDatawhiteiv data => Sys2Proof.Machine.execWrRadioDatawhiteiv data s
  | .trigTimerStart data => Sys2Proof.Machine.execTrigTimerStart data s
  | .trigTimerStop data => Sys2Proof.Machine.execTrigTimerStop data s
  | .trigTimerClear data => Sys2Proof.Machine.execTrigTimerClear data s
  | .clrTimerCompare0 data => Sys2Proof.Machine.execClrTimerCompare0 data s
  | .rdTimerCompare0 => Sys2Proof.Machine.execRdTimerCompare0 s
  | .wrTimerMode data => Sys2Proof.Machine.execWrTimerMode data s
  | .wrTimerBitmode data => Sys2Proof.Machine.execWrTimerBitmode data s
  | .wrTimerPrescaler data => Sys2Proof.Machine.execWrTimerPrescaler data s
  | .wrTimerCc0 t => Sys2Proof.Machine.execWrTimerCc0 t s
  | .stb addr data => Sys2Proof.Machine.execStb addr data s
  | .callMain => Sys2Proof.Machine.execCallMain s
  | .callConfigure => Sys2Proof.Machine.execCallConfigure s
  | .callTransmit bufAddr => Sys2Proof.Machine.execCallTransmit bufAddr s
  | .callEncode name => Sys2Proof.Machine.execCallEncode name s
  | .callTimerInit => Sys2Proof.Machine.execCallTimerInit s
  | .callDelayMs n => Sys2Proof.Machine.execCallDelayMs n s
  | .halt => Sys2Proof.Machine.execHalt s

end Sys2Proof.Machine
end

