-- ==== Sys2Proof/Machine/Program.lean ====
section
/-!
DEFINITION. The DRIVER's program text (10_state.md R22, R23): the numbered lines of `main`, `configure`, `transmit`, `encode`,
`timer_init`, `delay_ms` and `halt`, and the lines of a foreign program. A line is an operation the DRIVER issues, a `WAIT`, a
local computation, or no line (the DRIVER has no further step).
-/

namespace Sys2Proof.Machine

/-- What the DRIVER does at a position of the program text. -/
inductive Line
  /-- No line: the DRIVER has no further step. -/
  | exit
  /-- One operation: a transaction, a `CALL` or `HALT`. -/
  | op (c : Code)
  /-- One polling read of a `WAIT` (R143). -/
  | poll (c : Code)
  /-- A local computation with no bus transaction; `t` is the state after it. -/
  | compute (t : State)
  deriving DecidableEq, Repr

/-- A line that issues an instruction. -/
def Line.issue (i : Instr) : Line := .op (encode i)

/-- A line that waits for an event. -/
def Line.await (e : Event) : Line := .poll (encode e.read)

/-- A local computation that raises a fault. -/
def Line.raise (m : FaultMark) (s : State) : Line := .compute (s.raise m)

/-- Changes the DRIVER's variables. -/
def State.setDrv (d : Driver) (s : State) : State := { s with drv := d }

/-- `main` (45_transmit_loop.md R230). -/
def mainLine (s : State) (line : Nat) : Line :=
  match line with
  | 1 => .compute (s.setDrv { s.drv with txCount := some 0 }).advance
  | 2 => .issue .callConfigure
  | 3 => .issue (.callEncode s.params.name)
  | 4 =>
    match s.drv.r with
    | none => .raise (.unadmittedVar .r) s
    | some (.nameTooLong _) => .issue .halt
    | some (.ok _ _) => .compute s.advance
  | 5 => .issue .callTimerInit
  | 6 => .compute (s.setDrv { s.drv with iter := some 0 }).advance
  | 7 =>
    match s.drv.iter with
    | none => .raise (.unadmittedVar .i) s
    | some i => if s.params.loopBound = some i then .compute (s.setSeq Seq.exit) else .compute s.advance
  | 8 =>
    match s.drv.bufAddr with
    | none => .raise (.unadmittedVar .bufAddr) s
    | some a => .issue (.callTransmit a)
  | 9 =>
    match s.drv.txCount with
    | none => .raise (.unadmittedVar .txCount) s
    | some c => .compute (s.setDrv { s.drv with txCount := some (c + 1) }).advance
  | 10 =>
    match s.drv.txCount with
    | none => .raise (.unadmittedVar .txCount) s
    | some c => if c.toNat % Config.reportEvery = 0 then .compute (s.emitReport c).advance else .compute s.advance
  | 11 => .issue (.callDelayMs Config.advertisingMs)
  | 12 =>
    match s.drv.iter with
    | none => .raise (.unadmittedVar .i) s
    | some i => .compute ((s.setDrv { s.drv with iter := some (i + 1) }).setSeq ⟨.main, 7, 0⟩)
  | _ => .exit

/-- `configure` (40_radio_configure.md R115). -/
def configureLine (s : State) (line : Nat) : Line :=
  match line with
  | 0 => if s.drv.configured then .raise (.sequence .configureTwice) s else .compute s.advance
  | 1 => .issue (.wrRadioMode wordRadioMode)
  | 2 => .issue (.wrRadioFrequency wordRadioFrequency)
  | 3 => .issue (.wrRadioPcnf0 wordRadioPcnf0)
  | 4 => .issue (.wrRadioPcnf1 wordRadioPcnf1)
  | 5 => .issue (.wrRadioBase0 wordRadioBase0)
  | 6 => .issue (.wrRadioPrefix0 wordRadioPrefix0)
  | 7 => .issue (.wrRadioTxaddress wordRadioTxaddress)
  | 8 => .issue (.wrRadioCrccnf wordRadioCrccnf)
  | 9 => .issue (.wrRadioCrcpoly wordRadioCrcpoly)
  | 10 => .issue (.wrRadioCrcinit wordRadioCrcinit)
  | 11 => .issue (.wrRadioTxpower wordRadioTxpower)
  | 12 => .issue (.wrRadioDatawhiteiv wordRadioDatawhiteiv)
  | 13 => .compute (s.setDrv { s.drv with configured := true }).ret
  | _ => .exit

/-- `transmit(buf_addr)` (41_radio_transmit.md R148). -/
def transmitLine (bufAddr : Word) (s : State) (line : Nat) : Line :=
  match line with
  | 0 => if s.drv.configured then .compute s.advance else .raise (.sequence .transmitBeforeConfigure) s
  | 1 => .issue (.wrRadioPacketptr bufAddr)
  | 2 => .issue (.clrRadioReady clearWord)
  | 3 => .issue (.clrRadioEnd clearWord)
  | 4 => .issue (.trigRadioTxen taskWord)
  | 5 => .await .radioReady
  | 6 => .issue (.clrRadioReady clearWord)
  | 7 => .issue (.trigRadioStart taskWord)
  | 8 => .await .radioEnd
  | 9 => .issue (.trigRadioDisable taskWord)
  | 10 => .compute s.ret
  | _ => .exit

/-- The value and the variables `encode` leaves when it returns `Ok` (43_pdu_encoder.md R185 line 9). -/
def encodeDone (name : List Byte) (s : State) : Driver :=
  { s.drv with
    bufAddr := some s.params.bufBase
    pduLen := some (BitVec.ofNat 32 (pduLength name))
    r := some (.ok s.params.bufBase (BitVec.ofNat 32 (pduLength name))) }

/-- `encode(name)` (43_pdu_encoder.md R185): line 1 rejects a long name before any byte is written (R191). -/
def encodeLine (name : List Byte) (s : State) (line sub : Nat) : Line :=
  match line with
  | 1 =>
    if nameFits name then .compute s.advance
    else .compute (s.setDrv { s.drv with r := some (.nameTooLong name.length) }).ret
  | 9 => .compute (s.setDrv (encodeDone name s)).ret
  | _ =>
    match encodeStb s.params.bufBase name line sub with
    | none => .exit
    | some i => .issue i

/-- `timer_init` (44_delay_timer.md R220). -/
def timerInitLine (s : State) (line : Nat) : Line :=
  match line with
  | 1 => .issue (.wrTimerMode wordTimerMode)
  | 2 => .issue (.wrTimerBitmode wordTimerBitmode)
  | 3 => .issue (.wrTimerPrescaler wordTimerPrescaler)
  | 4 => .compute (s.setDrv { s.drv with timerReady := true }).ret
  | _ => .exit

/-- `delay_ms(n)` (44_delay_timer.md R221). Line 3 takes the argument from `n_ms` (30_encoding.md R106). -/
def delayMsLine (n : Word) (s : State) (line : Nat) : Line :=
  match line with
  | 0 => if s.drv.timerReady then .compute s.advance else .raise (.sequence .delayBeforeTimerInit) s
  | 1 =>
    match compareTarget n with
    | none => .raise (.delayOverflow n) s
    | some _ => .compute (s.setDrv { s.drv with nMs := some n }).advance
  | 2 => .issue (.trigTimerClear taskWord)
  | 3 =>
    match s.drv.nMs with
    | none => .raise (.unadmittedVar .nMs) s
    | some m =>
      match compareTarget m with
      | none => .raise (.delayOverflow m) s
      | some t => .issue (.wrTimerCc0 t)
  | 4 => .issue (.clrTimerCompare0 clearWord)
  | 5 => .issue (.trigTimerStart taskWord)
  | 6 => .await .timerCompare0
  | 7 => .issue (.trigTimerStop taskWord)
  | 8 => .compute s.ret
  | _ => .exit

/-- A line of a foreign driver program (30_encoding.md R107). -/
def foreignLine (s : State) (line : Nat) : Line :=
  match s.text[line]? with
  | none => .exit
  | some (.op c) => .op c
  | some (.wait e) => .await e

/-- The line at the sequence pointer. -/
def lineAt (s : State) : Line :=
  match s.drv.seq.proc with
  | .main => mainLine s s.drv.seq.line
  | .configure => configureLine s s.drv.seq.line
  | .transmit a => transmitLine a s s.drv.seq.line
  | .encode name => encodeLine name s s.drv.seq.line s.drv.seq.sub
  | .timerInit => timerInitLine s s.drv.seq.line
  | .delayMs n => delayMsLine n s s.drv.seq.line
  | .halt => if s.drv.seq.line = 1 then .issue .halt else .exit
  | .foreign => foreignLine s s.drv.seq.line

end Sys2Proof.Machine
end

