-- ==== Sys2Proof/Machine/Driver.lean ====
section
/-!
DEFINITION. The DRIVER's step (10_state.md R22): decoding the operation at the sequence pointer and running it, a polling read of a
`WAIT`, or a local computation.
-/

namespace Sys2Proof.Machine

/-- The fault of an operation word that spells no operation of the block (30_encoding.md R98). -/
def noSuchOperation : Code → FaultMark
  | .bus t => .unadmitted (unpackTransaction t) .noRow
  | .call selector _ => .unadmittedCall selector

/-- Decodes an operation word and runs what it spells (R98, R255). -/
def runCode (c : Code) (s : State) : Result :=
  match decode c with
  | none => fail (noSuchOperation c) s
  | some i => exec i s

/-- After a polling read that returned 0 the DRIVER stays at the `WAIT` (41_radio_transmit.md R143). -/
def stayUnlessSet (waitAt : Seq) : Result → Result
  | .next t => if t.fault = none ∧ t.drv.v = some 0 then .next (t.setSeq waitAt) else .next t
  | .fault f => .fault f
  | .refused r => .refused r

/-- One DRIVER step. -/
def driverStep (s : State) : Result :=
  match lineAt s with
  | .exit => .next s
  | .op c => runCode c s
  | .poll c => stayUnlessSet s.drv.seq (runCode c s)
  | .compute t => .next t

/-- The DRIVER has a step: it is not halted (45_transmit_loop.md R235) and has not exited (R230 line 13). -/
def driverEnabled (s : State) : Bool := decide (s.drv.mode = .running) && decide (lineAt s ≠ .exit)

end Sys2Proof.Machine
end

