-- ==== Sys2Proof/Machine/Turn.lean ====
section
/-!
DEFINITION. The turn of one agent (00_scope.md R11): the agent takes its step and the turn passes; and the placing of one operation
as the program the DRIVER runs next.
-/

namespace Sys2Proof.Machine

/-- The turn of an agent that has no step passes; a machine whose DRIVER is halted and whose other agents have no step either stops
with `H_FATAL` (60_exceptions.md R252; notes/assumptions/13.md). -/
def idleTurn (s : State) : Result :=
  if s.drv.mode = .halted ∧ radioEnabled s = false ∧ s.timer.running = false then .fault .fatalHalt
  else .next s.passTurn

/-- The turn of an agent in a state without a fault mark. -/
def agentTurn (a : Agent) (s : State) : Result :=
  match a with
  | .driver => if driverEnabled s then passTurnOf (driverStep s) else idleTurn s
  | .radio => if radioEnabled s then .next (radioStep s).passTurn else idleTurn s
  | .timer => if s.timer.running then .next (tick s).passTurn else idleTurn s

/-- `s` with one operation as the whole foreign driver program, the DRIVER at it, running, unfaulted and next to move
(notes/assumptions/22.md). -/
def State.withProgram (c : Code) (s : State) : State :=
  { s with
    text := [.op c]
    drv := { s.drv with seq := ⟨.foreign, 0, 0⟩, mode := .running }
    fault := none
    turns := .driver :: s.turns }

end Sys2Proof.Machine
end

