-- ==== Sys2Proof/Machine/Step.lean ====
section
/-!
DEFINITION. One step of the machine, and the placing of an opcode-table word where the next step fetches it.
-/

namespace Sys2Proof.Machine

/-- One step: the turn of the agent that moves next. No agent steps in a faulted state (10_state.md R54). -/
def step (s : State) : Host.Outcome State Fault Refusal :=
  match s.fault with
  | some m => .fault (.faulted m)
  | none => agentTurn s.nextAgent s

/-- `s` with the operation behind a word of the opcode table placed where the next step fetches it. -/
def State.withFetchWord (s : State) (nbits w : Nat) : State := s.withProgram (tableCode nbits w)

end Sys2Proof.Machine
end

