-- ==== Sys2Proof/WellFormed.lean ====
section
/-!
DEFINITION. Which operations are well-formed: those the admitted map allows with exactly the data word it admits
(30_encoding.md R96, R99 to R103).
-/

namespace Sys2Proof

/-- The operation has a word: every operation does, but an `STB` only inside the RAM window (R98, R102 row 30). -/
def encodable : Instr → Bool
  | .stb a _ => decide (Config.ramLo ≤ a.toNat) && decide (a.toNat ≤ Config.ramHi)
  | _ => true

/-- The data word is the one the row admits (R99, R100, R101); an `STB` carries one byte (R96). -/
def admittedData : Instr → Bool
  | .trigRadioTxen d => decide (d = taskWord)
  | .trigRadioStart d => decide (d = taskWord)
  | .trigRadioDisable d => decide (d = taskWord)
  | .clrRadioReady d => decide (d = clearWord)
  | .rdRadioReady => true
  | .clrRadioEnd d => decide (d = clearWord)
  | .rdRadioEnd => true
  | .wrRadioPacketptr _ => true
  | .wrRadioFrequency d => decide (d = wordRadioFrequency)
  | .wrRadioTxpower d => decide (d = wordRadioTxpower)
  | .wrRadioMode d => decide (d = wordRadioMode)
  | .wrRadioPcnf0 d => decide (d = wordRadioPcnf0)
  | .wrRadioPcnf1 d => decide (d = wordRadioPcnf1)
  | .wrRadioBase0 d => decide (d = wordRadioBase0)
  | .wrRadioPrefix0 d => decide (d = wordRadioPrefix0)
  | .wrRadioTxaddress d => decide (d = wordRadioTxaddress)
  | .wrRadioCrccnf d => decide (d = wordRadioCrccnf)
  | .wrRadioCrcpoly d => decide (d = wordRadioCrcpoly)
  | .wrRadioCrcinit d => decide (d = wordRadioCrcinit)
  | .wrRadioDatawhiteiv d => decide (d = wordRadioDatawhiteiv)
  | .trigTimerStart d => decide (d = taskWord)
  | .trigTimerStop d => decide (d = taskWord)
  | .trigTimerClear d => decide (d = taskWord)
  | .clrTimerCompare0 d => decide (d = clearWord)
  | .rdTimerCompare0 => true
  | .wrTimerMode d => decide (d = wordTimerMode)
  | .wrTimerBitmode d => decide (d = wordTimerBitmode)
  | .wrTimerPrescaler d => decide (d = wordTimerPrescaler)
  | .wrTimerCc0 _ => true
  | .stb _ d => decide (d.toNat < 256)
  | .callMain => true
  | .callConfigure => true
  | .callTransmit _ => true
  | .callEncode _ => true
  | .callTimerInit => true
  | .callDelayMs _ => true
  | .halt => true

/-- The operation has a word and the map admits it. -/
def wellFormed (i : Instr) : Bool := encodable i && admittedData i

end Sys2Proof
end

