-- ==== Sys2Proof/Safety.lean ====
section
/-!
DEFINITION. The terms claims are made in: the launch states (70_reset_and_hazards.md R271, R272), the end of a run
(45_transmit_loop.md R240), schedules and fairness, the invariant every step keeps, and the invariant of the block's own program.
-/

namespace Sys2Proof.Safety

open Sys2Proof.Machine

/-! ## Launch and end of a run -/

/-- `P_BUFFER` (R272, 20_memory.md R72), the placing: word-aligned and inside the RAM window. -/
def bufferPlaced (p : Params) : Bool :=
  decide (p.bufBase.toNat % 4 = 0) && decide (Config.ramLo ≤ p.bufBase.toNat)
    && decide (p.bufBase.toNat + Config.bufCap - 1 ≤ Config.ramHi)

/-- `P_BUFFER` (R272, 20_memory.md R72), the contents: the 39 bytes are 0. -/
def bufferZero (s : State) : Bool :=
  (List.range Config.bufCap).all (fun k => decide (Memory.read s.ram (s.params.bufBase.toNat + k) = 0))

/-- The shortcut and interrupt-enable registers hold 0 (10_state.md R37, R50; `P_NO_SHORTS`). -/
def noShortcuts (s : State) : Bool :=
  decide (s.radio.shorts = 0) && decide (s.radio.inten = 0) && decide (s.timer.shorts = 0) && decide (s.timer.inten = 0)

/-- A launch state (R57, R271, R272): every premise of the table but `P_EXCLUSIVE`, `HardwareLive` and `HfClockRunning`, which are
not about the state; every draw is arbitrary. The last three conjuncts are the model's own: RAM is in canonical form and inside
its window, the hardwired bit of `DATAWHITEIV` is 1, and no foreign program is placed. -/
structure Launch (s : State) : Prop where
  radioIdle : s.radio.rs = .idle
  packetptrUnwritten : s.radio.packetptr = none
  timerStopped : s.timer.running = false
  noShorts : noShortcuts s = true
  noFault : s.fault = none
  cleanDriver : s.drv = Driver.reset
  airEmpty : s.air = []
  logEmpty : s.log = []
  placed : bufferPlaced s.params = true
  zeroed : bufferZero s = true
  canonical : Memory.wf s.ram = true ∧ Memory.inWindow s.ram = true
  hardwired : s.radio.datawhiteiv.getLsbD 6 = true
  ownProgram : s.text = []

/-- The end of a run with a finite `K` (R240). -/
def Ended (s : State) : Prop :=
  s.drv.seq = Seq.exit ∧ s.radio.rs = .idle ∧ s.timer.running = false ∧ s.fault = none ∧ s.drv.mode = .running

/-- `HfClockRunning` (R8, D41), a premise of on-air claims only. -/
def HfClockRunning : Prop := Config.hfClockRunning = true

/-! ## Schedules and fairness (00_scope.md R11, 92_eei_decisions.md D29)

A schedule names the agent that moves at each step. Every schedule is admitted, so a claim about runs is made for all of them; the
model's own run takes the turns of `State.turns` and after them `Config.schedule` (notes/assumptions/6.md). -/

/-- One step on the turn of `a`. -/
def stepAs (a : Agent) (s : State) : Result := step { s with turns := [a] }

/-- `n` steps under a schedule. -/
def runUnder (f : Nat → Agent) (s : State) : Nat → Result
  | 0 => .next s
  | n + 1 =>
    match runUnder f s n with
    | .next t => stepAs (f n) t
    | .fault m => .fault m
    | .refused r => .refused r

/-- The agent has a step (R135, R212, R235). -/
def enabled (s : State) : Agent → Bool
  | .driver => driverEnabled s
  | .radio => radioEnabled s
  | .timer => s.timer.running

/-- Weak fairness to an agent: from no step on does the agent have a step in every state of the run and yet never a turn. -/
def WeaklyFair (f : Nat → Agent) (s : State) (a : Agent) : Prop :=
  ∀ n, (∀ m t, n ≤ m → runUnder f s m = .next t → enabled t a = true) → ∃ m, n ≤ m ∧ f m = a

/-- `HardwareLive` (R8, D29): the RADIO's and the TIMER's steps are weakly fair. -/
def HardwareLive (f : Nat → Agent) (s : State) : Prop := WeaklyFair f s .radio ∧ WeaklyFair f s .timer

/-- The DRIVER's steps are weakly fair: what 41_radio_transmit.md R151 and 44_delay_timer.md R226 take for granted when they say that
under `HardwareLive` a call returns (DEDUCED, notes/assumptions/33.md). -/
def DriverLive (f : Nat → Agent) (s : State) : Prop := WeaklyFair f s .driver

/-! ## The invariant every step keeps -/

/-- A latched packet is what `START` admits (R139, 20_memory.md R81): word-aligned, inside the RAM window, two header bytes and at
most 255 payload bytes. -/
def latchSound (r : RadioState) : Bool :=
  match r with
  | .transmitting l =>
    decide (l.ptr.toNat % 4 = 0) && decide (Config.ramLo ≤ l.ptr.toNat) && decide (2 ≤ l.bytes.length)
      && decide (l.bytes.length ≤ 257) && decide (l.ptr.toNat + l.bytes.length ≤ Config.ramHi + 1)
  | _ => true

/-- RAM is canonical and inside its window, shortcuts and interrupt enables are 0, the hardwired bit of `DATAWHITEIV` is 1, and a
latched packet is one `START` admits. -/
structure Inv (s : State) : Prop where
  ramCanonical : Memory.wf s.ram = true
  ramInWindow : Memory.inWindow s.ram = true
  noShorts : noShortcuts s = true
  hardwired : s.radio.datawhiteiv.getLsbD 6 = true
  latch : latchSound s.radio.rs = true

/-! ## Configuration progress (40_radio_configure.md R115, R129) -/

/-- The first `k` registers of `configure`'s lines hold the block's words. -/
def configPrefix (s : State) (k : Nat) : Bool := decide (s.radio.configWords.take k = blockConfigWords.take k)

/-- `drv.configured` is set only once the twelve registers hold the block's words: inside `configure` the lines already run have
stored theirs, and no procedure returns into `configure`. -/
structure ConfigInv (s : State) : Prop where
  configured : s.drv.configured = true → s.radio.blockConfigured = true
  progress : s.drv.seq.proc = .configure → configPrefix s (s.drv.seq.line - 1) = true
  callers : ∀ q ∈ s.drv.callers, q.proc ≠ .configure

/-! ## The block's own program (45_transmit_loop.md R230)

`BlockSafe` says, for each position of the program text, what holds of the DRIVER, the radio and the timer there. -/

/-- The radio is not in use: between two calls of `transmit` (41_radio_transmit.md R148). -/
def radioSteady (s : State) : Bool := decide (s.radio.rs = .idle) || decide (s.radio.rs = .disabled)

/-- Before `configure` has returned. -/
def unconfigured (s : State) : Bool :=
  !s.drv.configured && !s.drv.timerReady && decide (s.radio.rs = .idle) && !s.timer.running

/-- Between `configure` and `timer_init`. -/
def configuredOnly (s : State) : Bool :=
  s.drv.configured && s.radio.blockConfigured && !s.drv.timerReady && decide (s.radio.rs = .idle) && !s.timer.running

/-- `encode` has left the buffer's address. -/
def bufferKnown (s : State) : Bool := decide (s.drv.bufAddr = some s.params.bufBase) && nameFits s.params.name

/-- In the loop: configured, timer ready, buffer known, counters set. -/
def looping (s : State) : Bool :=
  s.drv.configured && s.radio.blockConfigured && s.drv.timerReady && bufferKnown s && s.drv.iter.isSome && s.drv.txCount.isSome

/-- `main` by line (R230). -/
def mainPosition (s : State) (line : Nat) : Bool :=
  match line with
  | 1 => unconfigured s
  | 2 => unconfigured s
  | 3 => configuredOnly s
  | 4 =>
    configuredOnly s &&
      match s.drv.r with
      | none => false
      | some (.nameTooLong _) => !nameFits s.params.name
      | some (.ok _ _) => bufferKnown s
  | 5 => configuredOnly s && bufferKnown s
  | 6 => s.drv.configured && s.radio.blockConfigured && s.drv.timerReady && bufferKnown s && decide (s.radio.rs = .idle) && !s.timer.running
  | 7 => looping s && radioSteady s && !s.timer.running
  | 8 => looping s && radioSteady s && !s.timer.running
  | 9 => looping s && radioSteady s && !s.timer.running
  | 10 => looping s && radioSteady s && !s.timer.running
  | 11 => looping s && radioSteady s && !s.timer.running
  | 12 => looping s && radioSteady s && !s.timer.running
  | 13 => looping s && radioSteady s && !s.timer.running && decide (s.params.loopBound = s.drv.iter)
  | _ => false

/-- `transmit` by line: the radio's state and flags (41_radio_transmit.md R135, R148). -/
def transmitPosition (s : State) (line : Nat) : Bool :=
  match line with
  | 0 => radioSteady s
  | 1 => radioSteady s
  | 2 => radioSteady s && decide (s.radio.packetptr = some s.params.bufBase)
  | 3 => radioSteady s && decide (s.radio.packetptr = some s.params.bufBase) && !s.radio.eventsReady
  | 4 => radioSteady s && decide (s.radio.packetptr = some s.params.bufBase) && !s.radio.eventsReady && !s.radio.eventsEnd
  | 5 =>
    decide (s.radio.packetptr = some s.params.bufBase) && !s.radio.eventsEnd
      && ((decide (s.radio.rs = .enabling) && !s.radio.eventsReady) || (decide (s.radio.rs = .ready) && s.radio.eventsReady))
  | 6 => decide (s.radio.packetptr = some s.params.bufBase) && !s.radio.eventsEnd && decide (s.radio.rs = .ready)
  | 7 => decide (s.radio.packetptr = some s.params.bufBase) && !s.radio.eventsEnd && decide (s.radio.rs = .ready)
  | 8 =>
    match s.radio.rs with
    | .transmitting _ => !s.radio.eventsEnd
    | .ended => s.radio.eventsEnd
    | _ => false
  | 9 => decide (s.radio.rs = .ended)
  | 10 => radioSteady s
  | _ => false

/-- `encode` by line and sub-step: a step of the text (43_pdu_encoder.md R185). -/
def encodePosition (s : State) (name : List Byte) (line sub : Nat) : Bool :=
  decide (name = s.params.name) &&
    match line with
    | 1 => decide (sub = 0)
    | 9 => decide (sub = 0) && nameFits name
    | _ => nameFits name && (encodeStb s.params.bufBase name line sub).isSome

/-- `delay_ms` by line (44_delay_timer.md R221, R224): the timer runs only between lines 5 and 7. -/
def delayPosition (s : State) (line : Nat) : Bool :=
  match line with
  | 0 => !s.timer.running
  | 1 => !s.timer.running
  | 2 => !s.timer.running && decide (s.drv.nMs = some Config.advertisingMs)
  | 3 => !s.timer.running && decide (s.drv.nMs = some Config.advertisingMs)
  | 4 => !s.timer.running
  | 5 => !s.timer.running
  | 6 => true
  | 7 => true
  | 8 => !s.timer.running
  | _ => false

/-- What holds at the DRIVER's position in the block's own program. -/
def blockPosition (s : State) : Bool :=
  match s.drv.seq.proc with
  | .main => decide (s.drv.mode = .running) && decide (s.drv.callers = []) && mainPosition s s.drv.seq.line
  | .configure =>
    decide (s.drv.mode = .running) && decide (s.drv.callers = [⟨.main, 3, 0⟩]) && unconfigured s
      && decide (s.drv.seq.line ≤ 13) && configPrefix s (s.drv.seq.line - 1)
  | .encode name =>
    decide (s.drv.mode = .running) && decide (s.drv.callers = [⟨.main, 4, 0⟩]) && configuredOnly s
      && encodePosition s name s.drv.seq.line s.drv.seq.sub
  | .timerInit =>
    decide (s.drv.mode = .running) && decide (s.drv.callers = [⟨.main, 6, 0⟩]) && configuredOnly s && bufferKnown s
      && decide (1 ≤ s.drv.seq.line) && decide (s.drv.seq.line ≤ 4)
  | .transmit a =>
    decide (s.drv.mode = .running) && decide (s.drv.callers = [⟨.main, 9, 0⟩]) && looping s && !s.timer.running
      && decide (a = s.params.bufBase) && transmitPosition s s.drv.seq.line
  | .delayMs n =>
    decide (s.drv.mode = .running) && decide (s.drv.callers = [⟨.main, 12, 0⟩]) && looping s && radioSteady s
      && decide (n = Config.advertisingMs) && delayPosition s s.drv.seq.line
  | .halt => decide (s.drv.mode = .halted) && configuredOnly s && !nameFits s.params.name
  | .foreign => false

/-- The invariant of the block's own program: no fault, the buffer is placed, `tx_count` has a value after line 1 of `main`, and the
position's facts hold. -/
structure BlockSafe (s : State) : Prop where
  noFault : s.fault = none
  placed : bufferPlaced s.params = true
  counted : s.drv.seq ≠ ⟨.main, 1, 0⟩ → s.drv.txCount.isSome = true
  position : blockPosition s = true

/-! ## What the block's own program has sent (45_transmit_loop.md R237, R241) -/

/-- The frame of the block's PDU on channel 37 at 0 dBm (42_radio_packet.md R177, R178, 43_pdu_encoder.md R196). -/
def blockFrame (name : List Byte) : AirFrame :=
  { bits := frame (encodeBytes name), freqMhz := 2402, txpowerDbm := 0 }

/-- The iterations `main` has finished. -/
def iterationsDone (s : State) : Nat := s.drv.iter.getD 0

/-- The frames sent so far, by position. -/
def framesSent (s : State) : Nat :=
  match s.drv.seq.proc with
  | .main =>
    if s.drv.seq.line < 7 then 0
    else if 9 ≤ s.drv.seq.line ∧ s.drv.seq.line ≤ 12 then iterationsDone s + 1
    else iterationsDone s
  | .transmit _ =>
    if 9 ≤ s.drv.seq.line ∨ (s.drv.seq.line = 8 ∧ s.radio.rs = .ended) then iterationsDone s + 1 else iterationsDone s
  | .delayMs _ => iterationsDone s + 1
  | _ => 0

/-- The calls of `transmit` counted so far, by position (R232). -/
def callsCounted (s : State) : Nat :=
  match s.drv.seq.proc with
  | .main =>
    if s.drv.seq.line < 7 then 0
    else if 10 ≤ s.drv.seq.line ∧ s.drv.seq.line ≤ 12 then iterationsDone s + 1
    else iterationsDone s
  | .transmit _ => iterationsDone s
  | .delayMs _ => iterationsDone s + 1
  | _ => 0

/-- The iterations whose line 10 is done, by position (R230). -/
def reportsPassed (s : State) : Nat :=
  match s.drv.seq.proc with
  | .main =>
    if s.drv.seq.line < 7 then 0
    else if 11 ≤ s.drv.seq.line ∧ s.drv.seq.line ≤ 12 then iterationsDone s + 1
    else iterationsDone s
  | .transmit _ => iterationsDone s
  | .delayMs _ => iterationsDone s + 1
  | _ => 0

/-- The reports offered by the first `n` iterations, in order (R233). -/
def reportsOffered (n : Nat) : List Report :=
  ((List.range n).filter (fun k => (BitVec.ofNat 32 (k + 1) : Word).toNat % Config.reportEvery = 0)).map
    (fun k => Report.mk (BitVec.ofNat 32 (k + 1)))

/-- How many bytes of the buffer `encode` has stored at a step (43_pdu_encoder.md R185); at lines up to 8 the length byte, offset 1,
is not final. -/
def bytesStored (name : List Byte) (line sub : Nat) : Nat :=
  match line with
  | 3 => 1
  | 4 => 2 + sub
  | 5 => 8 + sub
  | 6 => 11 + sub
  | 7 => 13 + sub
  | 8 => pduLength name
  | 9 => pduLength name
  | _ => 0

/-- The first `k` buffer bytes are those of the PDU, but for the length byte where it is not final. -/
def bufferHolds (s : State) (k : Nat) (lengthFinal : Bool) : Bool :=
  (List.range k).all (fun j =>
    (!lengthFinal && decide (j = 1))
      || decide (some (Memory.read s.ram (s.params.bufBase.toNat + j)) = (encodeBytes s.params.name)[j]?))

/-- What the buffer holds, by position (43_pdu_encoder.md R185, R195). -/
def bufferProgress (s : State) : Bool :=
  match s.drv.seq.proc with
  | .main =>
    match s.drv.seq.line with
    | 1 => true
    | 2 => true
    | 3 => true
    | 4 => !nameFits s.params.name || bufferHolds s (pduLength s.params.name) true
    | _ => bufferHolds s (pduLength s.params.name) true
  | .configure => true
  | .encode name => bufferHolds s (bytesStored name s.drv.seq.line s.drv.seq.sub) (decide (9 ≤ s.drv.seq.line))
  | .halt => true
  | .foreign => true
  | _ => bufferHolds s (pduLength s.params.name) true

/-- The packet in flight is the PDU. -/
def latchIsPdu (s : State) : Bool :=
  match s.radio.rs with
  | .transmitting l => decide (l.bytes = encodeBytes s.params.name)
  | _ => true

/-- What the block's own program has produced: RAM is canonical, the buffer holds the PDU, every frame sent is the PDU's, one per
finished call of `transmit`, `tx_count` counts them modulo 2^32, and the log holds offered reports in order. -/
structure BlockOutput (s : State) : Prop where
  canonical : Memory.wf s.ram = true
  buffer : bufferProgress s = true
  latch : latchIsPdu s = true
  air : s.air = List.replicate (framesSent s) (blockFrame s.params.name)
  counter : s.drv.seq ≠ ⟨.main, 1, 0⟩ → s.drv.txCount = some (BitVec.ofNat 32 (callsCounted s))
  reports : s.log.Sublist (reportsOffered (reportsPassed s))

end Sys2Proof.Safety
end

