-- ==== Sys2Proof/Certificates/Slice0/Obligations.lean ====
section
/-!
DEFINITION. The statements for the provers, each from numbered rules of spec/. Register words and addresses are written out as the
spec gives them, not by the model's names for them.
-/

open Sys2Proof Sys2Proof.Machine Sys2Proof.Safety

/-! ## Shared forms -/

/-- `n` steps of the machine. -/
def Sys2Proof.Claims.runSteps (n : Nat) (s : State) : Result := Host.Core.run Sys2Proof.core n s

/-- An unfaulted DRIVER that is running and whose turn it is. -/
def Sys2Proof.Claims.driverMoves (s : State) : Prop :=
  s.fault = none ∧ s.nextAgent = .driver ∧ s.drv.mode = .running

/-- A step that raises a fault: the mark is set and nothing else changes (R256). -/
def Sys2Proof.Claims.faults (o : Result) (s : State) (m : FaultMark) : Prop := o = .next { s with fault := some m }

/-- The rule of one radio configuration write: outside `Idle` it faults (R128), in `Idle` any other word faults (R99), and the
block's word is stored, changing nothing else but the sequence pointer. -/
def Sys2Proof.Claims.radioConfigRule (i : Word → Instr) (addr word : Word) (after : Radio → Radio) : Prop :=
  ∀ s : State,
    (s.fault = none → s.radio.rs ≠ .idle → ∀ d,
      Claims.faults (exec (i d) s) s (.unadmitted ⟨.write, addr, d⟩ .configWhileRadioBusy)) ∧
    (s.fault = none → s.radio.rs = .idle → ∀ d, d ≠ word →
      Claims.faults (exec (i d) s) s (.unadmitted ⟨.write, addr, d⟩ .value)) ∧
    (s.radio.rs = .idle → exec (i word) s = .next ({ s with radio := after s.radio }).advance)

/-- The rule of one timer configuration write (R215, R99). -/
def Sys2Proof.Claims.timerConfigRule (i : Word → Instr) (addr word : Word) (after : Timer → Timer) : Prop :=
  ∀ s : State,
    (s.fault = none → s.timer.running = true → ∀ d,
      Claims.faults (exec (i d) s) s (.unadmitted ⟨.write, addr, d⟩ .configWhileTimerRuns)) ∧
    (s.fault = none → s.timer.running = false → ∀ d, d ≠ word →
      Claims.faults (exec (i d) s) s (.unadmitted ⟨.write, addr, d⟩ .value)) ∧
    (s.timer.running = false → exec (i word) s = .next ({ s with timer := after s.timer }).advance)

/-- A write that in every unfaulted state faults with `F_UNADMITTED` and has no effect. -/
def Sys2Proof.Claims.refusedEverywhere (i : Instr) (addr data : Word) : Prop :=
  ∀ s : State, s.fault = none → ∃ why, Claims.faults (exec i s) s (.unadmitted ⟨.write, addr, data⟩ why)

/-- The 12 bytes after the length byte, and the name: R196's list. -/
def Sys2Proof.Claims.pduBytes (name : List Byte) : List Byte :=
  [0x42, BitVec.ofNat 8 (11 + name.length), 0xAA, 0xBB, 0xCC, 0xDD, 0xEE, 0xFF, 0x02, 0x01, 0x06,
    BitVec.ofNat 8 (name.length + 1), 0x09] ++ name

/-- The state at a procedure's first line, its caller's next step remembered. -/
def Sys2Proof.Claims.entered (s : State) (p : Proc) (firstLine : Nat) : State :=
  { s with drv := { s.drv with seq := ⟨p, firstLine, 0⟩, callers := s.drv.seq.next :: s.drv.callers } }

/-- The DRIVER's step issues the operation `i`. -/
def Sys2Proof.Claims.issues (s : State) (i : Instr) : Prop :=
  s.nextAgent = .driver ∧ ∃ c, lineAt s = .op c ∧ decode c = some i

/-! ## Encoding (30_encoding.md) -/

/-- R95, R97, R102: decoding the word of an operation gives the operation back, its data word, address and operand at every value
the encoding admits (an `STB` inside the RAM window). -/
def Obligations.DecodeEncodeRoundTrip : Prop := ∀ i : Instr, encodable i = true → decode (encode i) = some i

/-- R95, R98: an operation word that decodes is the word of what it decodes to: no bit of it is ignored. -/
def Obligations.DecodedWordIsItsEncoding : Prop := ∀ (c : Code) (i : Instr), decode c = some i → encode i = c

/-- R98: "there is at most one" row for a transaction. -/
def Obligations.MapRowsExclude : Prop :=
  admittedMap.Pairwise (fun r r' => ∀ dir addr, ¬(r.hits dir addr = true ∧ r'.hits dir addr = true))

/-- Words of 95_test_vectors.md decode to their operations (P1, V-CFG-4, V-TX-17, V-TMR-6, V-ENC-1, R97). -/
def Obligations.SpecWordsDecode : Prop :=
  decode (.bus 0x14000151000000003) = some (.wrRadioMode 3) ∧
  decode (.bus 0x14000151802030025) = some (.wrRadioPcnf1 0x02030025) ∧
  decode (.bus 0x04000110C00000000) = some .rdRadioEnd ∧
  decode (.bus 0x14000110C00000000) = some (.clrRadioEnd 0) ∧
  decode (.bus 0x140008540000003E8) = some (.wrTimerCc0 1000) ∧
  decode (.bus 0x14000100400000001) = none ∧
  decode (.bus 0x120000102000000AA) = some (.stb 0x20000102 0xAA) ∧
  decode (.call 0x06 (.word 100)) = some (.callDelayMs 100)

/-- R98, R247: a transaction that selects no row of the admitted map raises `F_UNADMITTED` with the transaction as its information,
and the step has no other effect. -/
def Obligations.UnlistedTransactionFaults : Prop :=
  ∀ (s : State) (x : Transaction), Claims.driverMoves s → lineAt s = .op (.bus (packTransaction x)) →
    (∀ r ∈ admittedMap, r.hits x.dir x.addr = false) →
    step s = .next ({ s with fault := some (.unadmitted x .noRow) }).passTurn

/-- R22: a step of the DRIVER at a line that issues an operation is `exec` of what the word decodes to; only the turn passes
besides. -/
def Obligations.StepRunsDecodedOperation : Prop :=
  ∀ (s : State) (c : Code) (i : Instr), Claims.driverMoves s → lineAt s = .op c → decode c = some i →
    step s = passTurnOf (exec i s)

/-- R143: a `WAIT` reads the flag into `v`, clears nothing, and goes on exactly if the flag is 1. -/
def Obligations.WaitReadsAndStaysUntilSet : Prop :=
  ∀ (s : State) (e : Event), Claims.driverMoves s → lineAt s = .await e →
    step s = .next (if s.eventFlag e then ({ s with drv := { s.drv with v := some 1 } }).advance
      else { s with drv := { s.drv with v := some 0 } }).passTurn

/-! ## Radio configuration (40_radio_configure.md) -/

/-- R116 to R121: MODE, TXPOWER, FREQUENCY, PCNF0, PCNF1, BASE0; and what the radio reads in their fields afterwards. -/
def Obligations.RadioConfigWritesModeToBase : Prop :=
  Claims.radioConfigRule .wrRadioMode 0x40001510 0x00000003 (fun r => { r with mode := 0x00000003 }) ∧
  Claims.radioConfigRule .wrRadioTxpower 0x4000150C 0x00000000 (fun r => { r with txpower := 0x00000000 }) ∧
  Claims.radioConfigRule .wrRadioFrequency 0x40001508 0x00000002 (fun r => { r with frequency := 0x00000002 }) ∧
  Claims.radioConfigRule .wrRadioPcnf0 0x40001514 0x00000108 (fun r => { r with pcnf0 := 0x00000108 }) ∧
  Claims.radioConfigRule .wrRadioPcnf1 0x40001518 0x02030025 (fun r => { r with pcnf1 := 0x02030025 }) ∧
  Claims.radioConfigRule .wrRadioBase0 0x4000151C 0x89BED600 (fun r => { r with base0 := 0x89BED600 }) ∧
  ∀ r : Radio,
    (r.mode = 0x00000003 → field r.mode 0 4 = 3) ∧
    (r.txpower = 0x00000000 → r.txpowerDbm = 0) ∧
    (r.frequency = 0x00000002 → r.freqMhz = 2402) ∧
    (r.pcnf0 = 0x00000108 → field r.pcnf0 0 4 = 8 ∧ field r.pcnf0 8 1 = 1 ∧ field r.pcnf0 16 4 = 0 ∧ field r.pcnf0 20 1 = 0 ∧
      field r.pcnf0 24 2 = 0 ∧ field r.pcnf0 26 1 = 0) ∧
    (r.pcnf1 = 0x02030025 → field r.pcnf1 0 8 = 37 ∧ field r.pcnf1 8 8 = 0 ∧ field r.pcnf1 16 3 = 3 ∧ field r.pcnf1 24 1 = 0 ∧
      field r.pcnf1 25 1 = 1) ∧
    (r.base0 = 0x89BED600 → r.base = 0x89BED6)

/-- R122 to R127: PREFIX0, TXADDRESS, CRCCNF, CRCPOLY, CRCINIT, DATAWHITEIV (which then reads 0x65); and what the radio reads in
their fields afterwards, the access address with `BASE0`'s word among it (R131). -/
def Obligations.RadioConfigWritesPrefixToWhitening : Prop :=
  Claims.radioConfigRule .wrRadioPrefix0 0x40001524 0x0000008E (fun r => { r with prefix0 := 0x0000008E }) ∧
  Claims.radioConfigRule .wrRadioTxaddress 0x4000152C 0x00000000 (fun r => { r with txaddress := 0x00000000 }) ∧
  Claims.radioConfigRule .wrRadioCrccnf 0x40001534 0x00000103 (fun r => { r with crccnf := 0x00000103 }) ∧
  Claims.radioConfigRule .wrRadioCrcpoly 0x40001538 0x0000065B (fun r => { r with crcpoly := 0x0000065B }) ∧
  Claims.radioConfigRule .wrRadioCrcinit 0x4000153C 0x00555555 (fun r => { r with crcinit := 0x00555555 }) ∧
  Claims.radioConfigRule .wrRadioDatawhiteiv 0x40001554 0x00000025 (fun r => { r with datawhiteiv := 0x00000065 }) ∧
  ∀ r : Radio,
    (r.prefix0 = 0x0000008E → r.addressHigh = 0x8E) ∧
    (r.prefix0 = 0x0000008E → r.base0 = 0x89BED600 → r.accessAddress = 0x8E89BED6) ∧
    (r.crccnf = 0x00000103 → field r.crccnf 0 2 = 3 ∧ field r.crccnf 8 2 = 1) ∧
    (r.crcpoly = 0x0000065B → r.poly = 0x00065B) ∧
    (r.crcinit = 0x00555555 → r.crcInitial = 0x555555) ∧
    (r.datawhiteiv = 0x00000065 → r.whiteIv = 37)

/-- R115: from its line 0 with an idle radio, `configure` takes 14 DRIVER steps, stores the twelve words, sets `configured`, returns
to its caller and changes nothing else. -/
def Obligations.ConfigureTakesFourteenSteps : Prop :=
  ∀ (s : State) (caller : Seq) (callers : List Seq) (rest : List Agent),
    s.fault = none → s.drv.mode = .running → s.drv.seq = ⟨.configure, 0, 0⟩ → s.drv.callers = caller :: callers →
    s.drv.configured = false → s.radio.rs = .idle → s.turns = List.replicate 14 Agent.driver ++ rest →
    Claims.runSteps 14 s = .next
      { s with
        drv := { s.drv with configured := true, seq := caller, callers := callers }
        radio := { s.radio with
          mode := 0x00000003
          frequency := 0x00000002
          pcnf0 := 0x00000108
          pcnf1 := 0x02030025
          base0 := 0x89BED600
          prefix0 := 0x0000008E
          txaddress := 0x00000000
          crccnf := 0x00000103
          crcpoly := 0x0000065B
          crcinit := 0x00555555
          txpower := 0x00000000
          datawhiteiv := 0x00000065 }
        turns := rest
        clock := s.clock + 14 }

/-! ## Radio transmit sequencing (41_radio_transmit.md) -/

/-- R136: the packet pointer takes any word in every radio state. -/
def Obligations.PacketptrWriteAlwaysStores : Prop :=
  ∀ (s : State) (a : Word),
    exec (.wrRadioPacketptr a) s = .next ({ s with radio := { s.radio with packetptr := some a } }).advance

/-- R137: `TXEN` by radio state: `Idle` goes to `Enabling`, `Disabled` holds, every other state faults. -/
def Obligations.TxenByRadioState : Prop :=
  ∀ s : State,
    (s.radio.rs = .idle →
      exec (.trigRadioTxen 1) s = .next ({ s with radio := { s.radio with rs := .enabling } }).advance) ∧
    (s.radio.rs = .disabled → exec (.trigRadioTxen 1) s = .next s) ∧
    (s.fault = none → s.radio.rs ≠ .idle → s.radio.rs ≠ .disabled →
      Claims.faults (exec (.trigRadioTxen 1) s) s (.unadmitted ⟨.write, 0x40001000, 1⟩ .txenWhileRadioBusy))

/-- R139: `START` outside `Ready` faults; with no pointer it faults; with a pointer that is misaligned or whose packet of
`2 + min(ram[ptr+1], MAXLEN)` bytes leaves RAM it raises `F_BAD_PACKETPTR`; else it latches those bytes and transmits. `MAXLEN` is
`PCNF1`'s field, 37 in the block's word (DEDUCED, notes/assumptions/9.md). -/
def Obligations.StartLatchesThePacket : Prop :=
  ∀ s : State,
    (s.fault = none → s.radio.rs ≠ .ready →
      Claims.faults (exec (.trigRadioStart 1) s) s (.unadmitted ⟨.write, 0x40001008, 1⟩ .startOutsideReady)) ∧
    (s.fault = none → s.radio.rs = .ready → s.radio.packetptr = none →
      Claims.faults (exec (.trigRadioStart 1) s) s (.unadmitted ⟨.write, 0x40001008, 1⟩ .packetptrUnwritten)) ∧
    (∀ ptr, s.radio.rs = .ready → s.radio.packetptr = some ptr →
      (s.fault = none →
        ptr.toNat % 4 ≠ 0 ∨ ptr.toNat < 0x20000000 ∨ ptr.toNat + 1 > 0x2001FFFF ∨
          ptr.toNat + 1 + min (Memory.read s.ram (ptr.toNat + 1)).toNat (field s.radio.pcnf1 0 8) > 0x2001FFFF →
        Claims.faults (exec (.trigRadioStart 1) s) s (.badPacketptr ptr)) ∧
      (ptr.toNat % 4 = 0 → 0x20000000 ≤ ptr.toNat →
        ptr.toNat + 1 + min (Memory.read s.ram (ptr.toNat + 1)).toNat (field s.radio.pcnf1 0 8) ≤ 0x2001FFFF →
        exec (.trigRadioStart 1) s = .next ({ s with radio := { s.radio with
          rs := .transmitting ⟨ptr, Memory.readBytes s.ram ptr.toNat
            (2 + min (Memory.read s.ram (ptr.toNat + 1)).toNat (field s.radio.pcnf1 0 8))⟩ } }).advance)) ∧
    (s.radio.pcnf1 = 0x02030025 → field s.radio.pcnf1 0 8 = 37)

/-- R141: `DISABLE` in `Ended` goes to `Disabled` and leaves the flags; in any other state it faults. -/
def Obligations.DisableOnlyInEnded : Prop :=
  ∀ s : State,
    (s.radio.rs = .ended →
      exec (.trigRadioDisable 1) s = .next ({ s with radio := { s.radio with rs := .disabled } }).advance) ∧
    (s.fault = none → s.radio.rs ≠ .ended →
      Claims.faults (exec (.trigRadioDisable 1) s) s (.unadmitted ⟨.write, 0x40001010, 1⟩ .disableOutsideEnded))

/-- R144, R146, R213: a clear sets the flag to 0 in every state and changes nothing else. -/
def Obligations.EventClearsWriteZero : Prop :=
  ∀ s : State,
    exec (.clrRadioReady 0) s = .next ({ s with radio := { s.radio with eventsReady := false } }).advance ∧
    exec (.clrRadioEnd 0) s = .next ({ s with radio := { s.radio with eventsEnd := false } }).advance ∧
    exec (.clrTimerCompare0 0) s = .next ({ s with timer := { s.timer with eventsCompare0 := false } }).advance

/-- R145, R147, R214: a read puts the flag, 0 or 1, into `v` and changes nothing else. -/
def Obligations.EventReadsReturnTheFlag : Prop :=
  ∀ s : State,
    exec .rdRadioReady s =
      .next ({ s with drv := { s.drv with v := some (if s.radio.eventsReady then 1 else 0) } }).advance ∧
    exec .rdRadioEnd s =
      .next ({ s with drv := { s.drv with v := some (if s.radio.eventsEnd then 1 else 0) } }).advance ∧
    exec .rdTimerCompare0 s =
      .next ({ s with drv := { s.drv with v := some (if s.timer.eventsCompare0 then 1 else 0) } }).advance

/-- R100, R101: a task write with a word other than 1, and an event write with a word other than 0, is refused in every state of the
radio and the timer. -/
def Obligations.TaskAndEventWritesCheckTheirWord : Prop :=
  (∀ d : Word, d ≠ 1 →
    Claims.refusedEverywhere (.trigRadioTxen d) 0x40001000 d ∧
    Claims.refusedEverywhere (.trigRadioStart d) 0x40001008 d ∧
    Claims.refusedEverywhere (.trigRadioDisable d) 0x40001010 d ∧
    Claims.refusedEverywhere (.trigTimerStart d) 0x40008000 d ∧
    Claims.refusedEverywhere (.trigTimerStop d) 0x40008004 d ∧
    Claims.refusedEverywhere (.trigTimerClear d) 0x4000800C d) ∧
  (∀ d : Word, d ≠ 0 →
    Claims.refusedEverywhere (.clrRadioReady d) 0x40001100 d ∧
    Claims.refusedEverywhere (.clrRadioEnd d) 0x4000110C d ∧
    Claims.refusedEverywhere (.clrTimerCompare0 d) 0x40008140 d)

/-- R138, R140, R142: the RADIO's turn. -/
def Obligations.RadioAgentSteps : Prop :=
  ∀ s : State, s.fault = none → s.nextAgent = .radio →
    (s.radio.rs = .enabling →
      step s = .next ({ s with radio := { s.radio with eventsReady := true, rs := .ready } }).passTurn) ∧
    (∀ l, s.radio.rs = .transmitting l →
      step s = .next ({ s with
        air := s.air ++ [s.radio.airFrame l.bytes]
        radio := { s.radio with eventsEnd := true, rs := .ended } }).passTurn) ∧
    (s.radio.rs = .disabled → step s = .next ({ s with radio := { s.radio with rs := .idle } }).passTurn)

/-- R148, R150: one `transmit` with the hardware's steps taken as soon as they are awaited: one frame, of the bytes at `buf_addr`,
and the flags, pointer and radio state R150 gives at the return; RAM and the timer unchanged. -/
def Obligations.TransmitSendsOneFrame : Prop :=
  ∀ (s : State) (a : Word) (caller : Seq) (callers : List Seq) (rest : List Agent),
    s.fault = none → s.drv.mode = .running → s.drv.seq = ⟨.transmit a, 0, 0⟩ → s.drv.callers = caller :: callers →
    s.drv.configured = true → s.radio.rs = .idle → packetInRam s a = true →
    s.turns = List.replicate 5 Agent.driver ++ [Agent.radio] ++ List.replicate 3 Agent.driver ++ [Agent.radio] ++
      List.replicate 3 Agent.driver ++ rest →
    Claims.runSteps 13 s = .next
      { s with
        drv := { s.drv with v := some 1, seq := caller, callers := callers }
        radio := { s.radio with packetptr := some a, eventsReady := false, eventsEnd := true, rs := .disabled }
        air := s.air ++ [s.radio.airFrame (Memory.readBytes s.ram a.toNat
          (2 + min (Memory.read s.ram (a.toNat + 1)).toNat (field s.radio.pcnf1 0 8)))]
        turns := rest
        clock := s.clock + 13 }

/-- R143, R151: a wait of `transmit` ends with the first read after the hardware step, however many turns of the DRIVER and the
TIMER come before: at line 5 once `RampUpDone` is taken, at line 8 once `TxDone` is taken. -/
def Obligations.WaitsEndOnceTheRadioSteps : Prop :=
  ∀ (s : State) (a : Word) (pre rest : List Agent),
    s.fault = none → s.drv.mode = .running → Agent.radio ∉ pre → s.turns = pre ++ [Agent.radio, Agent.driver] ++ rest →
    (s.drv.seq = ⟨.transmit a, 5, 0⟩ → s.radio.rs = .enabling → s.radio.eventsReady = false →
      ∃ t, Claims.runSteps (pre.length + 2) s = .next t ∧ t.drv.seq = ⟨.transmit a, 6, 0⟩ ∧ t.radio.rs = .ready ∧
        t.air = s.air ∧ t.fault = none) ∧
    (∀ l, s.drv.seq = ⟨.transmit a, 8, 0⟩ → s.radio.rs = .transmitting l → s.radio.eventsEnd = false →
      ∃ t, Claims.runSteps (pre.length + 2) s = .next t ∧ t.drv.seq = ⟨.transmit a, 9, 0⟩ ∧ t.radio.rs = .ended ∧
        t.air = s.air ++ [s.radio.airFrame l.bytes] ∧ t.fault = none)

/-- R150, R151: under every schedule that is weakly fair to the hardware (`HardwareLive`) and to the DRIVER, a call of `transmit` with
an admitted packet returns after finitely many steps, with the effect R150 gives. The DRIVER's fairness is DEDUCED
(notes/assumptions/33.md), `MAXLEN` too (9.md). -/
def Obligations.TransmitReturnsUnderFairness : Prop :=
  ∀ (f : Nat → Agent) (s : State) (a : Word) (caller : Seq) (callers : List Seq),
    s.fault = none → s.drv.mode = .running → s.drv.seq = ⟨.transmit a, 0, 0⟩ → s.drv.callers = caller :: callers →
    s.drv.configured = true → (s.radio.rs = .idle ∨ s.radio.rs = .disabled) → packetInRam s a = true →
    HardwareLive f s → DriverLive f s →
    ∃ n t, runUnder f s n = .next t ∧ t.fault = none ∧ t.drv.seq = caller ∧ t.drv.callers = callers ∧
      t.radio.packetptr = some a ∧ t.radio.eventsReady = false ∧ t.radio.eventsEnd = true ∧
      (t.radio.rs = .disabled ∨ t.radio.rs = .idle) ∧ t.ram = s.ram ∧
      t.air = s.air ++ [s.radio.airFrame (Memory.readBytes s.ram a.toNat
        (2 + min (Memory.read s.ram (a.toNat + 1)).toNat (field s.radio.pcnf1 0 8)))]

/-- R151, R226, R253: without its agent's steps a wait never ends and never times out: under every schedule that never gives the RADIO
a turn the DRIVER stays at lines 5 and 8 of `transmit`, and under every schedule that never gives the TIMER a turn at line 6 of
`delay_ms`, whatever turns the others have, and no fault is raised. -/
def Obligations.WaitsHangWithoutTheirAgent : Prop :=
  ∀ (f : Nat → Agent) (s : State), s.fault = none → s.drv.mode = .running →
    ((∀ n, f n ≠ .radio) → ∀ a,
      (s.drv.seq = ⟨.transmit a, 5, 0⟩ ∧ s.radio.eventsReady = false) ∨ (s.drv.seq = ⟨.transmit a, 8, 0⟩ ∧ s.radio.eventsEnd = false) →
      ∀ n, ∃ t, runUnder f s n = .next t ∧ t.drv.seq = s.drv.seq ∧ t.radio = s.radio ∧ t.fault = none) ∧
    ((∀ n, f n ≠ .timer) → ∀ d, s.drv.seq = ⟨.delayMs d, 6, 0⟩ → s.timer.eventsCompare0 = false →
      ∀ n, ∃ t, runUnder f s n = .next t ∧ t.drv.seq = s.drv.seq ∧ t.timer = s.timer ∧ t.fault = none)

/-! ## On-air framing (42_radio_packet.md) -/

/-- R172: both forms of the CRC give the same bits: `r[k] = c[23-k]`. -/
def Obligations.CrcFormsAgree : Prop :=
  ∀ (ds : List Bool) (k : Nat), k < 24 →
    (crc24Reflected ds).getLsbD k = (crc24 0x00065B 0x555555 ds).getLsbD (23 - k)

/-- R174: whitening twice with the same seed restores the input. -/
def Obligations.WhiteningIsItsOwnInverse : Prop :=
  ∀ (iv : BitVec 6) (xs : List Bool), whiten iv (whiten iv xs) = xs

/-- R179: a receiver that whitens the bits after the access address recovers the PDU and CRC bits, and the CRC register run over
them ends at 0. -/
def Obligations.ReceiverRecoversThePdu : Prop :=
  ∀ latch : List Byte,
    whiten 37 ((frame latch).drop 40) = bitsOf latch ++ crcBits (crc24 0x00065B 0x555555 (bitsOf latch)) ∧
    crc24 0x00065B 0x555555 (bitsOf latch ++ crcBits (crc24 0x00065B 0x555555 (bitsOf latch))) = 0

/-- R165: the frame of a packet of `L` payload bytes has `8 * (1 + 4 + 2 + L + 3)` bits. -/
def Obligations.FrameLengthInBits : Prop :=
  ∀ (latch : List Byte) (L : Nat), latch.length = 2 + L → (frame latch).length = 8 * (1 + 4 + 2 + L + 3)

/-- R177, R178: a radio that holds the block's configuration sends R177's frame on 2402 MHz at 0 dBm. -/
def Obligations.ConfiguredRadioSendsTheFrame : Prop :=
  ∀ (r : Radio) (latch : List Byte), r.blockConfigured = true →
    r.airFrame latch =
      { bits := bitsOf [0xAA] ++ bitsOf [0xD6, 0xBE, 0x89, 0x8E] ++
          whiten 37 (bitsOf latch ++ crcBits (crc24 0x00065B 0x555555 (bitsOf latch)))
        freqMhz := 2402
        txpowerDbm := 0 }

/-! ## The PDU encoder (43_pdu_encoder.md) -/

/-- R199: `STB` outside the RAM window faults, into the packet being sent raises `F_DMA_RACE`, and else writes its byte: the address
then reads as the byte, every other address as before, and nothing but RAM and the sequence pointer changes. -/
def Obligations.StbWritesOneByte : Prop :=
  ∀ (s : State) (a : Word) (b : Byte),
    (s.fault = none → a.toNat < 0x20000000 ∨ a.toNat > 0x2001FFFF →
      Claims.faults (exec (.stb a (b.setWidth 32)) s) s (.unadmitted ⟨.write, a, b.setWidth 32⟩ .address)) ∧
    (0x20000000 ≤ a.toNat → a.toNat ≤ 0x2001FFFF →
      (∀ l, s.fault = none → s.radio.rs = .transmitting l → l.ptr.toNat ≤ a.toNat →
        a.toNat < l.ptr.toNat + l.bytes.length → Claims.faults (exec (.stb a (b.setWidth 32)) s) s (.dmaRace a)) ∧
      ((∀ l, s.radio.rs = .transmitting l → ¬(l.ptr.toNat ≤ a.toNat ∧ a.toNat < l.ptr.toNat + l.bytes.length)) →
        Memory.wf s.ram = true →
        ∃ ram, exec (.stb a (b.setWidth 32)) s = .next ({ s with ram := ram }).advance ∧
          Memory.read ram a.toNat = b ∧ (∀ x, x ≠ a.toNat → Memory.read ram x = Memory.read s.ram x) ∧
          Memory.wf ram = true))

/-- R96: an `STB` whose `data[31:8]` is not 0 is refused (as a value check: DEDUCED, notes/assumptions/17.md). -/
def Obligations.StbCarriesOneByte : Prop :=
  ∀ a d : Word, 256 ≤ d.toNat → Claims.refusedEverywhere (.stb a d) a d

/-- R185, R192, R196: from its first line with an accepted name and its buffer in RAM, `encode` takes `16 + n` DRIVER steps, leaves
R196's bytes at `BUF_ADDR` and every other byte of RAM as it was, sets `buf_addr` and `pdu_len = 13 + n`, returns `Ok`, and
changes nothing else. -/
def Obligations.EncodeFillsTheBuffer : Prop :=
  ∀ (s : State) (name : List Byte) (caller : Seq) (callers : List Seq) (rest : List Agent),
    s.fault = none → s.drv.mode = .running → s.drv.seq = ⟨.encode name, 1, 0⟩ → s.drv.callers = caller :: callers →
    name.length ≤ 26 → bufferPlaced s.params = true → Memory.wf s.ram = true → s.radio.rs = .idle →
    s.turns = List.replicate (16 + name.length) Agent.driver ++ rest →
    ∃ ram, Claims.runSteps (16 + name.length) s = .next
        { s with
          drv := { s.drv with
            bufAddr := some s.params.bufBase
            pduLen := some (BitVec.ofNat 32 (13 + name.length))
            r := some (.ok s.params.bufBase (BitVec.ofNat 32 (13 + name.length)))
            seq := caller
            callers := callers }
          ram := ram
          turns := rest
          clock := s.clock + (16 + name.length) } ∧
      (∀ j, j < 13 + name.length →
        some (Memory.read ram (s.params.bufBase.toNat + j)) = (Claims.pduBytes name)[j]?) ∧
      ∀ x, x < s.params.bufBase.toNat ∨ s.params.bufBase.toNat + (13 + name.length) ≤ x →
        Memory.read ram x = Memory.read s.ram x

/-- R185, R191, R245: a name of more than 26 bytes is rejected by line 1: the error with its length is returned, no byte is written,
no fault is raised. That the returned value is held in `r` is the model's (notes/assumptions/21.md), the turn too (6.md). -/
def Obligations.EncodeRejectsLongNames : Prop :=
  ∀ (s : State) (name : List Byte) (caller : Seq) (callers : List Seq),
    Claims.driverMoves s → s.drv.seq = ⟨.encode name, 1, 0⟩ → s.drv.callers = caller :: callers → 26 < name.length →
    step s = .next ({ s with
      drv := { s.drv with r := some (.nameTooLong name.length), seq := caller, callers := callers } }).passTurn

/-! ## The delay timer (44_delay_timer.md) -/

/-- R205, R206, R207, R215: TIMER.MODE, BITMODE, PRESCALER; and the mode, width and tick rate the timer then has. -/
def Obligations.TimerConfigWrites : Prop :=
  Claims.timerConfigRule .wrTimerMode 0x40008504 0x00000000 (fun r => { r with mode := 0x00000000 }) ∧
  Claims.timerConfigRule .wrTimerBitmode 0x40008508 0x00000003 (fun r => { r with bitmode := 0x00000003 }) ∧
  Claims.timerConfigRule .wrTimerPrescaler 0x40008510 0x00000004 (fun r => { r with prescaler := 0x00000004 }) ∧
  ∀ r : Timer,
    (r.mode = 0x00000000 → r.countsTicks = true) ∧
    (r.bitmode = 0x00000003 → r.width = 32) ∧
    (r.prescaler = 0x00000004 → r.tickHz = 1000000)

/-- R208, R209, R210, R211: CLEAR, START and STOP act in every timer state, a CC0 write stores any word, and none sets the event. -/
def Obligations.TimerTasksAndCompareTarget : Prop :=
  ∀ s : State,
    exec (.trigTimerClear 1) s = .next ({ s with timer := { s.timer with count := 0 } }).advance ∧
    exec (.trigTimerStart 1) s = .next ({ s with timer := { s.timer with running := true } }).advance ∧
    exec (.trigTimerStop 1) s = .next ({ s with timer := { s.timer with running := false } }).advance ∧
    ∀ t, exec (.wrTimerCc0 t) s = .next ({ s with timer := { s.timer with cc := t } }).advance

/-- R212: a tick of a 32-bit timer adds 1 modulo 2^32 and sets the event exactly if the counter then equals the target. -/
def Obligations.TickCountsAndCompares : Prop :=
  ∀ s : State, s.fault = none → s.nextAgent = .timer → s.timer.running = true → s.timer.bitmode = 3 →
    step s = .next ({ s with timer := { s.timer with
      count := s.timer.count + 1
      eventsCompare0 := s.timer.eventsCompare0 || decide (s.timer.count + 1 = s.timer.cc) } }).passTurn

/-- R212, R223, R224: from a cleared 32-bit counter and a cleared event, a target `t >= 1` is reported after exactly `t` ticks, a
target of 0 by the tick that wraps the counter, after 2^32: not before, and from then on. -/
def Obligations.CompareComesAfterExactlyTheTarget : Prop :=
  ∀ (s : State) (m : Nat), s.timer.bitmode = 3 → s.timer.count = 0 → s.timer.eventsCompare0 = false → m ≤ 2 ^ 32 →
    (tick^[m] s).timer.count = BitVec.ofNat 32 m ∧
      (tick^[m] s).timer.eventsCompare0 = decide ((if s.timer.cc = 0 then 2 ^ 32 else s.timer.cc.toNat) ≤ m)

/-- R220: from a stopped timer, `timer_init` takes 4 DRIVER steps, stores the three words, sets `timer_ready` and returns. -/
def Obligations.TimerInitTakesFourSteps : Prop :=
  ∀ (s : State) (caller : Seq) (callers : List Seq) (rest : List Agent),
    s.fault = none → s.drv.mode = .running → s.drv.seq = ⟨.timerInit, 1, 0⟩ → s.drv.callers = caller :: callers →
    s.timer.running = false → s.turns = List.replicate 4 Agent.driver ++ rest →
    Claims.runSteps 4 s = .next
      { s with
        drv := { s.drv with timerReady := true, seq := caller, callers := callers }
        timer := { s.timer with mode := 0x00000000, bitmode := 0x00000003, prescaler := 0x00000004 }
        turns := rest
        clock := s.clock + 4 }

/-- R221: `delay_ms(n)` with `1 <= n` and a target that fits: with its `n * 1000` ticks taken between lines 5 and 6 it returns with
`cc = count = n * 1000`, the event 1, the timer stopped, and the radio, RAM and traces unchanged. -/
def Obligations.DelayTakesItsTicks : Prop :=
  ∀ (s : State) (n : Word) (caller : Seq) (callers : List Seq) (rest : List Agent),
    s.fault = none → s.drv.mode = .running → s.drv.seq = ⟨.delayMs n, 0, 0⟩ → s.drv.callers = caller :: callers →
    s.drv.timerReady = true → s.timer.running = false → s.timer.bitmode = 3 → 1 ≤ n.toNat → n.toNat * 1000 < 2 ^ 32 →
    s.turns = List.replicate 6 Agent.driver ++ List.replicate (n.toNat * 1000) Agent.timer ++ List.replicate 3 Agent.driver ++ rest →
    Claims.runSteps (n.toNat * 1000 + 9) s = .next
      { s with
        drv := { s.drv with nMs := some n, v := some 1, seq := caller, callers := callers }
        timer := { s.timer with
          cc := BitVec.ofNat 32 (n.toNat * 1000)
          count := BitVec.ofNat 32 (n.toNat * 1000)
          eventsCompare0 := true
          running := false }
        turns := rest
        clock := s.clock + (n.toNat * 1000 + 9) }

/-- R250: a delay whose target does not fit in 32 bits, that is `n >= 4294968`, raises `F_DELAY_OVERFLOW` before any timer access. -/
def Obligations.DelayOverflowFaults : Prop :=
  ∀ (s : State) (n : Word), Claims.driverMoves s → s.drv.seq = ⟨.delayMs n, 1, 0⟩ → 4294968 ≤ n.toNat →
    step s = .next ({ s with fault := some (.delayOverflow n) }).passTurn

/-- R226, R253: under every schedule that is weakly fair to the hardware (`HardwareLive`) and to the DRIVER, a call of `delay_ms` whose
target fits returns after finitely many steps, a call with 0 among them (R223), with the timer stopped and the event set. The
DRIVER's fairness is DEDUCED (notes/assumptions/33.md). -/
def Obligations.DelayReturnsUnderFairness : Prop :=
  ∀ (f : Nat → Agent) (s : State) (n : Word) (caller : Seq) (callers : List Seq),
    s.fault = none → s.drv.mode = .running → s.drv.seq = ⟨.delayMs n, 0, 0⟩ → s.drv.callers = caller :: callers →
    s.drv.timerReady = true → s.timer.running = false → s.timer.bitmode = 3 → n.toNat * 1000 < 2 ^ 32 →
    HardwareLive f s → DriverLive f s →
    ∃ k t, runUnder f s k = .next t ∧ t.fault = none ∧ t.drv.seq = caller ∧ t.drv.callers = callers ∧
      t.timer.running = false ∧ t.timer.eventsCompare0 = true ∧ t.timer.cc = BitVec.ofNat 32 (n.toNat * 1000) ∧ t.ram = s.ram

/-! ## Calls, loop and halt (45_transmit_loop.md) -/

/-- R22, R97: outside `encode` the sequence pointer goes from a step to the next numbered step of the same procedure; a `CALL` takes
the DRIVER to the procedure's first line and remembers the caller's next step; nothing else changes. That a `CALL` is one step of the
caller is a DESIGN CHOICE (notes/assumptions/19.md). -/
def Obligations.SequencePointerMoves : Prop :=
  ∀ s : State,
    ((∀ name, s.drv.seq.proc ≠ .encode name) →
      s.advance = { s with drv := { s.drv with seq := ⟨s.drv.seq.proc, s.drv.seq.line + 1, 0⟩ } }) ∧
    exec .callMain s = .next (Claims.entered s .main 1) ∧
    exec .callConfigure s = .next (Claims.entered s .configure 0) ∧
    (∀ a, exec (.callTransmit a) s = .next (Claims.entered s (.transmit a) 0)) ∧
    (∀ name, exec (.callEncode name) s = .next (Claims.entered s (.encode name) 1)) ∧
    exec .callTimerInit s = .next (Claims.entered s .timerInit 1) ∧
    ∀ n, exec (.callDelayMs n) s = .next (Claims.entered s (.delayMs n) 0)

/-- R235: `HALT` sets `drv.mode` to `Halted` and changes nothing else but the sequence pointer; no step changes a halted DRIVER; the
RADIO's and the TIMER's steps stay enabled. -/
def Obligations.HaltStopsTheDriver : Prop :=
  ∀ s : State,
    exec .halt s = .next { s with drv := { s.drv with mode := .halted, seq := ⟨.halt, 1, 0⟩ } } ∧
    (s.drv.mode = .halted → ∀ t, step s = .next t → t.drv = s.drv) ∧
    (s.drv.mode = .halted → s.fault = none → s.nextAgent = .radio → radioEnabled s = true →
      step s = .next (radioStep s).passTurn) ∧
    (s.drv.mode = .halted → s.fault = none → s.nextAgent = .timer → s.timer.running = true → step s = .next (tick s).passTurn)

/-- R54, R235, R252: the machine stops exactly in two cases. In a state with a fault mark no agent steps; a halted DRIVER beside a radio
and a timer without a step is reported as `H_FATAL`, code 7, with no fault mark set; every other state has a next state. That a fault
is first a next state with its mark, and when the halt is reported, are DESIGN CHOICES (notes/assumptions/12.md, 13.md). -/
def Obligations.MachineStopsExactly : Prop :=
  ∀ s : State,
    (∀ m, s.fault = some m → step s = .fault (.faulted m)) ∧
    (s.fault = none → s.drv.mode = .halted → radioEnabled s = false → s.timer.running = false →
      step s = .fault .fatalHalt ∧ Fault.fatalHalt.code = 7) ∧
    (s.fault = none → s.drv.mode = .running ∨ radioEnabled s = true ∨ s.timer.running = true → ∃ t, step s = .next t)

/-- R251: the three calls out of order fault at their line 0 and record which. -/
def Obligations.CallsOutOfOrderFault : Prop :=
  ∀ s : State, Claims.driverMoves s →
    (∀ a, s.drv.seq = ⟨.transmit a, 0, 0⟩ → s.drv.configured = false →
      step s = .next ({ s with fault := some (.sequence .transmitBeforeConfigure) }).passTurn) ∧
    (s.drv.seq = ⟨.configure, 0, 0⟩ → s.drv.configured = true →
      step s = .next ({ s with fault := some (.sequence .configureTwice) }).passTurn) ∧
    (∀ n, s.drv.seq = ⟨.delayMs n, 0, 0⟩ → s.drv.timerReady = false →
      step s = .next ({ s with fault := some (.sequence .delayBeforeTimerInit) }).passTurn)

/-- R232, R233, R234: line 9 of `main` adds 1 modulo 2^32 to `tx_count`; line 10 offers `Report(tx_count)` exactly if `tx_count` is a
multiple of 100, and the sink keeps or drops it. The turn is the model's (notes/assumptions/6.md). -/
def Obligations.CounterAndReport : Prop :=
  ∀ (s : State) (c : Word), Claims.driverMoves s → s.drv.txCount = some c →
    (s.drv.seq = ⟨.main, 9, 0⟩ →
      step s = .next ({ s with drv := { s.drv with txCount := some (c + 1), seq := ⟨.main, 10, 0⟩ } }).passTurn) ∧
    (s.drv.seq = ⟨.main, 10, 0⟩ →
      (c.toNat % 100 = 0 →
        step s = .next ({ s with log := s.log ++ [Report.mk c], drv := { s.drv with seq := ⟨.main, 11, 0⟩ } }).passTurn ∨
        step s = .next ({ s with drv := { s.drv with seq := ⟨.main, 11, 0⟩ } }).passTurn) ∧
      (c.toNat % 100 ≠ 0 → step s = .next ({ s with drv := { s.drv with seq := ⟨.main, 11, 0⟩ } }).passTurn))

/-- R230, R238: at line 4 `main` halts if `encode` returned its error and goes on if it returned `Ok`; the loop head, line 7, exits
after `K` iterations and else goes on to line 8, which calls `transmit` with the address `encode` left; `K = inf` never exits. -/
def Obligations.MainDecidesAtItsBranches : Prop :=
  ∀ s : State, Claims.driverMoves s →
    (∀ n, s.drv.seq = ⟨.main, 4, 0⟩ → s.drv.r = some (.nameTooLong n) →
      step s = .next ({ s with drv := { s.drv with mode := .halted, seq := ⟨.halt, 1, 0⟩ } }).passTurn) ∧
    (∀ a w, s.drv.seq = ⟨.main, 4, 0⟩ → s.drv.r = some (.ok a w) →
      step s = .next ({ s with drv := { s.drv with seq := ⟨.main, 5, 0⟩ } }).passTurn) ∧
    (∀ i, s.drv.seq = ⟨.main, 7, 0⟩ → s.drv.iter = some i →
      step s = .next ({ s with drv := { s.drv with
        seq := if s.params.loopBound = some i then ⟨.main, 13, 0⟩ else ⟨.main, 8, 0⟩ } }).passTurn) ∧
    (∀ a, s.drv.seq = ⟨.main, 8, 0⟩ → s.drv.bufAddr = some a → step s = .next (Claims.entered s (.transmit a) 0).passTurn)

/-! ## Faults (60_exceptions.md) -/

/-- R256: a fault is precise: a step that leaves a fault mark changes nothing else (the turn passes). -/
def Obligations.FaultsArePrecise : Prop :=
  ∀ (s t : State) (m : FaultMark), step s = .next t → t.fault = some m → t = ({ s with fault := some m }).passTurn

/-! ## The whole machine -/

/-- R57, R272: the state after reset is a launch state (its draws and parameters are the model's choice, notes/assumptions/2.md,
3.md, 4.md, 5.md), and every launch state meets the machine's invariant, the configuration invariant and the block program's
invariants. -/
def Obligations.LaunchMeetsTheInvariants : Prop :=
  Launch State.reset ∧ ∀ s : State, Launch s → Inv s ∧ ConfigInv s ∧ BlockSafe s ∧ BlockOutput s

/-- Every step of every program keeps: RAM canonical and inside its window, no shortcut or interrupt enable set, the hardwired bit
of `DATAWHITEIV`, and a latched packet word-aligned and inside RAM. -/
def Obligations.EveryStepKeepsInv : Prop := ∀ s t : State, Inv s → step s = .next t → Inv t

/-- R115, R129: every step of every program keeps the configuration invariant, so `drv.configured` means that the twelve registers
hold the block's words. -/
def Obligations.EveryStepKeepsConfigInv : Prop := ∀ s t : State, ConfigInv s → step s = .next t → ConfigInv t

/-- R129: once `configure` has returned, no step of any program changes a configuration register. -/
def Obligations.ConfigurationNeverChanges : Prop :=
  ∀ s t : State, ConfigInv s → s.drv.configured = true → step s = .next t →
    t.radio.configWords = s.radio.configWords ∧ t.drv.configured = true

/-- R135: the radio's state moves only by the six edges, each with its cause and with its effect and no other.
`latchAt` takes `MAXLEN` from `PCNF1` (DEDUCED, notes/assumptions/9.md), the frame of a radio without the block's configuration is a
free value (8.md), and the turn is the model's (6.md). -/
def Obligations.RadioMovesOnlyByItsEdges : Prop :=
  ∀ s t : State, step s = .next t →
    t.radio.rs = s.radio.rs ∨
    (Claims.issues s (.trigRadioTxen 1) ∧ s.radio.rs = .idle ∧
      t = ({ s with radio := { s.radio with rs := .enabling } }).advance.passTurn) ∨
    (s.nextAgent = .radio ∧ s.radio.rs = .enabling ∧
      t = ({ s with radio := { s.radio with eventsReady := true, rs := .ready } }).passTurn) ∨
    (Claims.issues s (.trigRadioStart 1) ∧ s.radio.rs = .ready ∧ ∃ ptr, s.radio.packetptr = some ptr ∧
      t = ({ s with radio := { s.radio with rs := .transmitting (latchAt s ptr) } }).advance.passTurn) ∨
    (s.nextAgent = .radio ∧ ∃ l, s.radio.rs = .transmitting l ∧
      t = ({ s with
        air := s.air ++ [s.radio.airFrame l.bytes]
        radio := { s.radio with eventsEnd := true, rs := .ended } }).passTurn) ∨
    (Claims.issues s (.trigRadioDisable 1) ∧ s.radio.rs = .ended ∧
      t = ({ s with radio := { s.radio with rs := .disabled } }).advance.passTurn) ∨
    (s.nextAgent = .radio ∧ s.radio.rs = .disabled ∧ t = ({ s with radio := { s.radio with rs := .idle } }).passTurn)

/-- R40: the air trace grows only by the RADIO's end-of-transmission step, by the frame of the latch. -/
def Obligations.AirGrowsOnlyByTxDone : Prop :=
  ∀ s t : State, step s = .next t →
    t.air = s.air ∨
    (s.nextAgent = .radio ∧ ∃ l, s.radio.rs = .transmitting l ∧ t.radio.rs = .ended ∧
      t.air = s.air ++ [s.radio.airFrame l.bytes])

/-- R39, R49: an event flag is set only by its agent's step, and cleared only by a DRIVER's write of 0 to it. -/
def Obligations.FlagsChangeOnlyByTheirRules : Prop :=
  ∀ s t : State, step s = .next t →
    (t.radio.eventsReady ≠ s.radio.eventsReady →
      (t.radio.eventsReady = true ∧ s.nextAgent = .radio ∧ s.radio.rs = .enabling) ∨
      (t.radio.eventsReady = false ∧ Claims.issues s (.clrRadioReady 0))) ∧
    (t.radio.eventsEnd ≠ s.radio.eventsEnd →
      (t.radio.eventsEnd = true ∧ s.nextAgent = .radio ∧ ∃ l, s.radio.rs = .transmitting l) ∨
      (t.radio.eventsEnd = false ∧ Claims.issues s (.clrRadioEnd 0))) ∧
    (t.timer.eventsCompare0 ≠ s.timer.eventsCompare0 →
      (t.timer.eventsCompare0 = true ∧ s.nextAgent = .timer ∧ s.timer.running = true ∧ s.timer.tickReaches = true) ∨
      (t.timer.eventsCompare0 = false ∧ Claims.issues s (.clrTimerCompare0 0)))

/-- R51, R52: the counter changes only by a tick while the timer runs or by the DRIVER's CLEAR to 0, and the running flag only by the
DRIVER's START and STOP. -/
def Obligations.TimerChangesOnlyByItsRules : Prop :=
  ∀ s t : State, step s = .next t →
    (t.timer.count ≠ s.timer.count →
      (s.nextAgent = .timer ∧ s.timer.running = true ∧ t.timer.count = s.timer.nextCount) ∨
      (t.timer.count = 0 ∧ Claims.issues s (.trigTimerClear 1))) ∧
    (t.timer.running ≠ s.timer.running →
      Claims.issues s (if t.timer.running then .trigTimerStart 1 else .trigTimerStop 1))

/-- R23, R89: the program text and the parameters never change during a run. -/
def Obligations.ProgramAndParametersNeverChange : Prop :=
  ∀ s t : State, step s = .next t → t.text = s.text ∧ t.params = s.params

/-- R246, R135 to R148, R221, R230: every step of the block's own program keeps its invariant: at each position the radio, the timer
and the DRIVER's variables are as the next operation needs them, whatever the interleaving. -/
def Obligations.EveryStepKeepsBlockSafe : Prop := ∀ s t : State, BlockSafe s → step s = .next t → BlockSafe t

/-- R195, R231, R237: every step of the block's own program keeps: the buffer holds the PDU once encoded, the packet in flight is the
PDU, the air trace is one frame of the PDU per finished transmission, and `tx_count` counts the calls modulo 2^32. -/
def Obligations.EveryStepKeepsBlockOutput : Prop :=
  ∀ s t : State, BlockSafe s → BlockOutput s → step s = .next t → BlockOutput t

/-- R246: from every launch state, under every schedule, for every `NAME`, `BUF_ADDR` and `K`, no run of the block's own program ever
faults: after any number of steps there is an unfaulted next state, or the DRIVER halted, and it halts only on a `NAME` of more than
26 bytes. -/
def Obligations.BlockProgramNeverFaults : Prop :=
  ∀ (s : State) (n : Nat), Launch s →
    match Claims.runSteps n s with
    | .next t => t.fault = none ∧ (t.drv.mode = .halted → 26 < s.params.name.length)
    | .fault f => f = .fatalHalt ∧ 26 < s.params.name.length
    | .refused _ => False

/-- R241: a run from a launch state that ends after `K < 2^32` iterations, under any schedule: the air trace is `K` copies of the
frame of the PDU, `tx_count` is `K` modulo 2^32, the log is a sublist of `Report(100), Report(200), ...` up to `K`, and the buffer holds
the PDU. -/
def Obligations.EndedRunSentKFrames : Prop :=
  ∀ (s t : State) (n K : Nat), Launch s → Claims.runSteps n s = .next t → Ended t → s.params.loopBound = some K → K < 2 ^ 32 →
    t.air = List.replicate K (blockFrame s.params.name) ∧
    t.drv.txCount = some (BitVec.ofNat 32 K) ∧
    t.log.Sublist ((List.range (K / 100)).map (fun j => Report.mk (BitVec.ofNat 32 (100 * (j + 1))))) ∧
    ∀ j, j < 13 + s.params.name.length →
      some (Memory.read t.ram (s.params.bufBase.toNat + j)) = (Claims.pduBytes s.params.name)[j]?

/-- R275: the launch draws do not show: from two launch states with the same parameters, under the same schedule, every number of
steps gives the same stop or the same air trace, log, counter, position and 39 buffer bytes. -/
def Obligations.LaunchDrawsDoNotShow : Prop :=
  ∀ (s s' : State) (n : Nat), Launch s → Launch s' → s'.params = s.params → s'.turns = s.turns → s'.clock = s.clock →
    match Claims.runSteps n s, Claims.runSteps n s' with
    | .next t, .next t' =>
      t'.air = t.air ∧ t'.log = t.log ∧ t'.drv.txCount = t.drv.txCount ∧ t'.drv.seq = t.drv.seq ∧
        ∀ j, j < 39 → Memory.read t'.ram (s.params.bufBase.toNat + j) = Memory.read t.ram (s.params.bufBase.toNat + j)
    | .fault f, .fault f' => f' = f
    | _, _ => False
end

