-- ==== Sys2Proof/Laws/Decode.lean ====
section
/-!
SUPPORT. The transaction word (30_encoding.md R95) and the decoding of register transactions: what the provers cite instead of
unfolding the map.
-/

namespace Sys2Proof

/-- A transaction word holds its direction, address and data. -/
@[simp] theorem unpack_pack (x : Transaction) : unpackTransaction (packTransaction x) = x := by
  obtain ⟨dir, addr, data⟩ := x
  unfold unpackTransaction packTransaction
  congr 1
  · have hbit : (dir.bit ++ addr ++ data).getLsbD 64 = dir.bit.getLsbD 0 := by
      rw [BitVec.getLsbD_append, if_neg (by omega), BitVec.getLsbD_append, if_neg (by omega)]
    show (if (dir.bit ++ addr ++ data).getLsbD 64 = true then Dir.write else Dir.read) = dir
    rw [hbit]
    cases dir <;> rfl
  · ext k hk
    simp only [BitVec.getElem_extractLsb', BitVec.getLsbD_append]
    rw [if_neg (by omega), if_pos (by omega)]
    simp only [Nat.add_sub_cancel_left]
    exact BitVec.getLsbD_eq_getElem hk
  · ext k hk
    simp only [BitVec.getElem_extractLsb', BitVec.getLsbD_append]
    rw [if_pos (by omega)]
    simp only [Nat.zero_add]
    exact BitVec.getLsbD_eq_getElem hk

/-- A write decodes by the row it selects. -/
theorem decode_writeCode (addr data : Word) (r : MapRow) (h : findRow .write addr = some r) :
    decode (writeCode addr data) = some (r.spell addr data) := by
  simp [decode, writeCode, decodeTransaction, h]

/-- A read decodes by the row it selects. -/
theorem decode_readCode (addr : Word) (r : MapRow) (h : findRow .read addr = some r) :
    decode (readCode addr) = some (r.spell addr 0) := by
  simp [decode, readCode, decodeTransaction, h]

end Sys2Proof
end

