-- ==== Sys2Proof/Laws/Memory.lean ====
section
/-!
SUPPORT. RAM: read after write, and the canonical form every memory operation keeps (20_memory.md R73).
-/

namespace Sys2Proof.Machine

/-! ## Read after write -/

theorem Memory.read_write_same (m : Memory) (x : Nat) (v : Byte) (lo : Nat) (h : Memory.wfFrom lo m = true) :
    Memory.read (Memory.write m x v) x = v := by
  induction m generalizing lo with
  | nil =>
    unfold Memory.write
    split
    · rename_i hv; simp [Memory.read, hv]
    · simp [Memory.read]
  | cons c rest ih =>
    obtain ⟨a, b⟩ := c
    simp only [Memory.wfFrom, Bool.and_eq_true, decide_eq_true_eq] at h
    have absent : ∀ (l : Memory) (k : Nat), x < k → Memory.wfFrom k l = true → Memory.read l x = Memory.unlisted := by
      intro l
      induction l with
      | nil => intros; rfl
      | cons d l ihl =>
        intro k hk hw
        obtain ⟨a', b'⟩ := d
        simp only [Memory.wfFrom, Bool.and_eq_true, decide_eq_true_eq] at hw
        have hne : a' ≠ x := by omega
        simp only [Memory.read, hne, if_false]
        exact ihl (a' + 1) (by omega) hw.2
    unfold Memory.write
    split
    · rename_i hx
      split
      · rename_i hv
        have hne : a ≠ x := by omega
        simp only [Memory.read, hne, if_false]
        rw [hv]; exact absent rest (a + 1) (by omega) h.2
      · simp [Memory.read]
    · split
      · rename_i hx
        split
        · rename_i hv
          rw [hv]; exact absent rest (a + 1) (by omega) h.2
        · simp [Memory.read]
      · rename_i h1 h2
        have hne : a ≠ x := fun e => h2 e.symm
        simp only [Memory.read, hne, if_false]
        exact ih (a + 1) h.2

theorem Memory.read_write_other (m : Memory) (x y : Nat) (v : Byte) (h : y ≠ x) :
    Memory.read (Memory.write m x v) y = Memory.read m y := by
  induction m with
  | nil =>
    unfold Memory.write
    split
    · rfl
    · have hne : x ≠ y := fun e => h e.symm
      simp [Memory.read, hne]
  | cons c rest ih =>
    obtain ⟨a, b⟩ := c
    have hne : x ≠ y := fun e => h e.symm
    unfold Memory.write
    split
    · split
      · rfl
      · simp [Memory.read, hne]
    · split
      · rename_i hx
        subst hx
        split
        · simp [Memory.read, hne]
        · simp [Memory.read, hne]
      · simp only [Memory.read]
        split
        · rfl
        · exact ih

/-! ## The canonical form -/

theorem Memory.wfFrom_mono (m : Memory) (lo hi : Nat) (hle : lo ≤ hi) (h : Memory.wfFrom hi m = true) :
    Memory.wfFrom lo m = true := by
  cases m with
  | nil => rfl
  | cons c rest =>
    obtain ⟨a, b⟩ := c
    simp only [Memory.wfFrom, Bool.and_eq_true, decide_eq_true_eq] at h ⊢
    exact ⟨⟨by omega, h.1.2⟩, h.2⟩

theorem Memory.write_wfFrom (m : Memory) (x : Nat) (v : Byte) (lo : Nat) (hx : lo ≤ x) (h : Memory.wfFrom lo m = true) :
    Memory.wfFrom lo (Memory.write m x v) = true := by
  induction m generalizing lo with
  | nil =>
    unfold Memory.write
    split
    · rfl
    · rename_i hv; simp [Memory.wfFrom, hx, hv]
  | cons c rest ih =>
    obtain ⟨a, b⟩ := c
    have h0 := h
    simp only [Memory.wfFrom, Bool.and_eq_true, decide_eq_true_eq] at h
    unfold Memory.write
    split
    · rename_i hlt
      split
      · exact h0
      · rename_i hv
        simp only [Memory.wfFrom, Bool.and_eq_true, decide_eq_true_eq]
        exact ⟨⟨hx, hv⟩, ⟨by omega, h.1.2⟩, h.2⟩
    · split
      · rename_i hge heq
        split
        · exact Memory.wfFrom_mono rest lo (a + 1) (by omega) h.2
        · rename_i hv
          subst heq
          simp only [Memory.wfFrom, Bool.and_eq_true, decide_eq_true_eq]
          exact ⟨⟨hx, hv⟩, h.2⟩
      · rename_i hge hne
        simp only [Memory.wfFrom, Bool.and_eq_true, decide_eq_true_eq]
        exact ⟨h.1, ih (a + 1) (by omega) h.2⟩

/-- A write keeps the canonical form. -/
theorem Memory.write_wf (m : Memory) (x : Nat) (v : Byte) (h : Memory.wf m = true) : Memory.wf (Memory.write m x v) = true :=
  Memory.write_wfFrom m x v 0 (Nat.zero_le x) h

/-- A write of several bytes keeps the canonical form. -/
theorem Memory.writeBytes_wf (vs : List Byte) (m : Memory) (x : Nat) (h : Memory.wf m = true) :
    Memory.wf (Memory.writeBytes m x vs) = true := by
  induction vs generalizing m x with
  | nil => exact h
  | cons v vs ih => exact ih _ _ (Memory.write_wf m x v h)

/-- The memory at launch is canonical. -/
theorem State.reset_ram_wf : Memory.wf State.reset.ram = true := rfl

/-- A canonical memory reads back the byte written. -/
theorem Memory.read_write (m : Memory) (x : Nat) (v : Byte) (h : Memory.wf m = true) :
    Memory.read (Memory.write m x v) x = v := Memory.read_write_same m x v 0 h

/-- The entries after a write are entries of before, or the one written. -/
theorem Memory.mem_write (m : Memory) (x : Nat) (v : Byte) (c : Host.Cell) (h : c ∈ Memory.write m x v) :
    c ∈ m ∨ c = (x, v) := by
  induction m with
  | nil =>
    unfold Memory.write at h
    split at h
    · simp at h
    · right; simpa using h
  | cons d rest ih =>
    obtain ⟨a, b⟩ := d
    unfold Memory.write at h
    split at h
    · split at h
      · exact .inl h
      · rcases List.mem_cons.mp h with h | h
        · exact .inr h
        · exact .inl h
    · split at h
      · split at h
        · exact .inl (List.mem_cons_of_mem _ h)
        · rcases List.mem_cons.mp h with h | h
          · exact .inr h
          · exact .inl (List.mem_cons_of_mem _ h)
      · rcases List.mem_cons.mp h with h | h
        · exact .inl (h ▸ List.mem_cons_self)
        · rcases ih h with h | h
          · exact .inl (List.mem_cons_of_mem _ h)
          · exact .inr h

/-- A write inside the window keeps every entry inside it. -/
theorem Memory.write_inWindow (m : Memory) (x : Nat) (v : Byte) (hx : inRam x = true) (h : Memory.inWindow m = true) :
    Memory.inWindow (Memory.write m x v) = true := by
  simp only [Memory.inWindow, List.all_eq_true] at h ⊢
  intro c hc
  rcases Memory.mem_write m x v c hc with hm | rfl
  · exact h c hm
  · exact hx

/-! ## Reading several bytes -/

@[simp] theorem Memory.readBytes_length (m : Memory) (a n : Nat) : (Memory.readBytes m a n).length = n := by
  induction n generalizing a with
  | zero => rfl
  | succ n ih => simp [Memory.readBytes, ih]

theorem Memory.readBytes_getElem? (m : Memory) (a n k : Nat) (hk : k < n) :
    (Memory.readBytes m a n)[k]? = some (Memory.read m (a + k)) := by
  induction n generalizing a k with
  | zero => omega
  | succ n ih =>
    cases k with
    | zero => simp [Memory.readBytes]
    | succ k =>
      have := ih (a + 1) k (by omega)
      simpa [Memory.readBytes, Nat.add_assoc, Nat.add_comm 1 k] using this

end Sys2Proof.Machine
end

