-- ==== Sys2Proof/Laws/State.lean ====
section
/-!
SUPPORT. The small lemmas of the named state updates: what each field holds after each of them.
-/

namespace Sys2Proof.Machine

/-! ## Raising a fault -/

@[simp] theorem State.raise_drv (m : FaultMark) (s : State) : (s.raise m).drv = s.drv := by
  unfold State.raise; split <;> rfl
@[simp] theorem State.raise_radio (m : FaultMark) (s : State) : (s.raise m).radio = s.radio := by
  unfold State.raise; split <;> rfl
@[simp] theorem State.raise_timer (m : FaultMark) (s : State) : (s.raise m).timer = s.timer := by
  unfold State.raise; split <;> rfl
@[simp] theorem State.raise_ram (m : FaultMark) (s : State) : (s.raise m).ram = s.ram := by
  unfold State.raise; split <;> rfl
@[simp] theorem State.raise_air (m : FaultMark) (s : State) : (s.raise m).air = s.air := by
  unfold State.raise; split <;> rfl
@[simp] theorem State.raise_log (m : FaultMark) (s : State) : (s.raise m).log = s.log := by
  unfold State.raise; split <;> rfl
@[simp] theorem State.raise_params (m : FaultMark) (s : State) : (s.raise m).params = s.params := by
  unfold State.raise; split <;> rfl
@[simp] theorem State.raise_text (m : FaultMark) (s : State) : (s.raise m).text = s.text := by
  unfold State.raise; split <;> rfl
@[simp] theorem State.raise_turns (m : FaultMark) (s : State) : (s.raise m).turns = s.turns := by
  unfold State.raise; split <;> rfl
@[simp] theorem State.raise_clock (m : FaultMark) (s : State) : (s.raise m).clock = s.clock := by
  unfold State.raise; split <;> rfl

/-- An unfaulted state takes the mark. -/
@[simp] theorem State.raise_fault (m : FaultMark) (s : State) (h : s.fault = none) : (s.raise m).fault = some m := by
  unfold State.raise; rw [h]

/-- The first fault is kept. -/
@[simp] theorem State.raise_of_faulted (m k : FaultMark) (s : State) (h : s.fault = some k) : s.raise m = s := by
  unfold State.raise; rw [h]

/-- Raising in an unfaulted state sets the mark and nothing else. -/
theorem State.raise_eq (m : FaultMark) (s : State) (h : s.fault = none) : s.raise m = { s with fault := some m } := by
  unfold State.raise; rw [h]

/-- Every state has a mark after a raise. -/
theorem State.raise_fault_isSome (m : FaultMark) (s : State) : (s.raise m).fault.isSome = true := by
  unfold State.raise; split <;> simp_all

/-! ## `setSeq` -/

@[simp] theorem State.setSeq_radio (q : Seq) (s : State) : (s.setSeq q).radio = s.radio := rfl
@[simp] theorem State.setSeq_timer (q : Seq) (s : State) : (s.setSeq q).timer = s.timer := rfl
@[simp] theorem State.setSeq_ram (q : Seq) (s : State) : (s.setSeq q).ram = s.ram := rfl
@[simp] theorem State.setSeq_air (q : Seq) (s : State) : (s.setSeq q).air = s.air := rfl
@[simp] theorem State.setSeq_log (q : Seq) (s : State) : (s.setSeq q).log = s.log := rfl
@[simp] theorem State.setSeq_fault (q : Seq) (s : State) : (s.setSeq q).fault = s.fault := rfl
@[simp] theorem State.setSeq_params (q : Seq) (s : State) : (s.setSeq q).params = s.params := rfl
@[simp] theorem State.setSeq_text (q : Seq) (s : State) : (s.setSeq q).text = s.text := rfl
@[simp] theorem State.setSeq_turns (q : Seq) (s : State) : (s.setSeq q).turns = s.turns := rfl
@[simp] theorem State.setSeq_clock (q : Seq) (s : State) : (s.setSeq q).clock = s.clock := rfl
@[simp] theorem State.setSeq_drv_bufAddr (q : Seq) (s : State) : (s.setSeq q).drv.bufAddr = s.drv.bufAddr := rfl
@[simp] theorem State.setSeq_drv_pduLen (q : Seq) (s : State) : (s.setSeq q).drv.pduLen = s.drv.pduLen := rfl
@[simp] theorem State.setSeq_drv_txCount (q : Seq) (s : State) : (s.setSeq q).drv.txCount = s.drv.txCount := rfl
@[simp] theorem State.setSeq_drv_nMs (q : Seq) (s : State) : (s.setSeq q).drv.nMs = s.drv.nMs := rfl
@[simp] theorem State.setSeq_drv_v (q : Seq) (s : State) : (s.setSeq q).drv.v = s.drv.v := rfl
@[simp] theorem State.setSeq_drv_configured (q : Seq) (s : State) : (s.setSeq q).drv.configured = s.drv.configured := rfl
@[simp] theorem State.setSeq_drv_timerReady (q : Seq) (s : State) : (s.setSeq q).drv.timerReady = s.drv.timerReady := rfl
@[simp] theorem State.setSeq_drv_mode (q : Seq) (s : State) : (s.setSeq q).drv.mode = s.drv.mode := rfl
@[simp] theorem State.setSeq_drv_seq (q : Seq) (s : State) : (s.setSeq q).drv.seq = q := rfl
@[simp] theorem State.setSeq_drv_callers (q : Seq) (s : State) : (s.setSeq q).drv.callers = s.drv.callers := rfl
@[simp] theorem State.setSeq_drv_r (q : Seq) (s : State) : (s.setSeq q).drv.r = s.drv.r := rfl
@[simp] theorem State.setSeq_drv_iter (q : Seq) (s : State) : (s.setSeq q).drv.iter = s.drv.iter := rfl

/-! ## `advance` -/

@[simp] theorem State.advance_radio (s : State) : (s.advance).radio = s.radio := rfl
@[simp] theorem State.advance_timer (s : State) : (s.advance).timer = s.timer := rfl
@[simp] theorem State.advance_ram (s : State) : (s.advance).ram = s.ram := rfl
@[simp] theorem State.advance_air (s : State) : (s.advance).air = s.air := rfl
@[simp] theorem State.advance_log (s : State) : (s.advance).log = s.log := rfl
@[simp] theorem State.advance_fault (s : State) : (s.advance).fault = s.fault := rfl
@[simp] theorem State.advance_params (s : State) : (s.advance).params = s.params := rfl
@[simp] theorem State.advance_text (s : State) : (s.advance).text = s.text := rfl
@[simp] theorem State.advance_turns (s : State) : (s.advance).turns = s.turns := rfl
@[simp] theorem State.advance_clock (s : State) : (s.advance).clock = s.clock := rfl
@[simp] theorem State.advance_drv_bufAddr (s : State) : (s.advance).drv.bufAddr = s.drv.bufAddr := rfl
@[simp] theorem State.advance_drv_pduLen (s : State) : (s.advance).drv.pduLen = s.drv.pduLen := rfl
@[simp] theorem State.advance_drv_txCount (s : State) : (s.advance).drv.txCount = s.drv.txCount := rfl
@[simp] theorem State.advance_drv_nMs (s : State) : (s.advance).drv.nMs = s.drv.nMs := rfl
@[simp] theorem State.advance_drv_v (s : State) : (s.advance).drv.v = s.drv.v := rfl
@[simp] theorem State.advance_drv_configured (s : State) : (s.advance).drv.configured = s.drv.configured := rfl
@[simp] theorem State.advance_drv_timerReady (s : State) : (s.advance).drv.timerReady = s.drv.timerReady := rfl
@[simp] theorem State.advance_drv_mode (s : State) : (s.advance).drv.mode = s.drv.mode := rfl
@[simp] theorem State.advance_drv_seq (s : State) : (s.advance).drv.seq = s.drv.seq.next := rfl
@[simp] theorem State.advance_drv_callers (s : State) : (s.advance).drv.callers = s.drv.callers := rfl
@[simp] theorem State.advance_drv_r (s : State) : (s.advance).drv.r = s.drv.r := rfl
@[simp] theorem State.advance_drv_iter (s : State) : (s.advance).drv.iter = s.drv.iter := rfl

/-! ## `enter` -/

@[simp] theorem State.enter_radio (p : Proc) (s : State) : (s.enter p).radio = s.radio := rfl
@[simp] theorem State.enter_timer (p : Proc) (s : State) : (s.enter p).timer = s.timer := rfl
@[simp] theorem State.enter_ram (p : Proc) (s : State) : (s.enter p).ram = s.ram := rfl
@[simp] theorem State.enter_air (p : Proc) (s : State) : (s.enter p).air = s.air := rfl
@[simp] theorem State.enter_log (p : Proc) (s : State) : (s.enter p).log = s.log := rfl
@[simp] theorem State.enter_fault (p : Proc) (s : State) : (s.enter p).fault = s.fault := rfl
@[simp] theorem State.enter_params (p : Proc) (s : State) : (s.enter p).params = s.params := rfl
@[simp] theorem State.enter_text (p : Proc) (s : State) : (s.enter p).text = s.text := rfl
@[simp] theorem State.enter_turns (p : Proc) (s : State) : (s.enter p).turns = s.turns := rfl
@[simp] theorem State.enter_clock (p : Proc) (s : State) : (s.enter p).clock = s.clock := rfl
@[simp] theorem State.enter_drv_bufAddr (p : Proc) (s : State) : (s.enter p).drv.bufAddr = s.drv.bufAddr := rfl
@[simp] theorem State.enter_drv_pduLen (p : Proc) (s : State) : (s.enter p).drv.pduLen = s.drv.pduLen := rfl
@[simp] theorem State.enter_drv_txCount (p : Proc) (s : State) : (s.enter p).drv.txCount = s.drv.txCount := rfl
@[simp] theorem State.enter_drv_nMs (p : Proc) (s : State) : (s.enter p).drv.nMs = s.drv.nMs := rfl
@[simp] theorem State.enter_drv_v (p : Proc) (s : State) : (s.enter p).drv.v = s.drv.v := rfl
@[simp] theorem State.enter_drv_configured (p : Proc) (s : State) : (s.enter p).drv.configured = s.drv.configured := rfl
@[simp] theorem State.enter_drv_timerReady (p : Proc) (s : State) : (s.enter p).drv.timerReady = s.drv.timerReady := rfl
@[simp] theorem State.enter_drv_mode (p : Proc) (s : State) : (s.enter p).drv.mode = s.drv.mode := rfl
@[simp] theorem State.enter_drv_seq (p : Proc) (s : State) : (s.enter p).drv.seq = ⟨p, p.firstLine, 0⟩ := rfl
@[simp] theorem State.enter_drv_callers (p : Proc) (s : State) : (s.enter p).drv.callers = s.drv.seq.next :: s.drv.callers := rfl
@[simp] theorem State.enter_drv_r (p : Proc) (s : State) : (s.enter p).drv.r = s.drv.r := rfl
@[simp] theorem State.enter_drv_iter (p : Proc) (s : State) : (s.enter p).drv.iter = s.drv.iter := rfl

/-! ## `setDrv`, `ret`, `passTurn`, `emitReport` -/

@[simp] theorem State.setDrv_drv (d : Driver) (s : State) : (s.setDrv d).drv = d := rfl
@[simp] theorem State.setDrv_radio (d : Driver) (s : State) : (s.setDrv d).radio = s.radio := rfl
@[simp] theorem State.setDrv_timer (d : Driver) (s : State) : (s.setDrv d).timer = s.timer := rfl
@[simp] theorem State.setDrv_ram (d : Driver) (s : State) : (s.setDrv d).ram = s.ram := rfl
@[simp] theorem State.setDrv_air (d : Driver) (s : State) : (s.setDrv d).air = s.air := rfl
@[simp] theorem State.setDrv_log (d : Driver) (s : State) : (s.setDrv d).log = s.log := rfl
@[simp] theorem State.setDrv_fault (d : Driver) (s : State) : (s.setDrv d).fault = s.fault := rfl
@[simp] theorem State.setDrv_params (d : Driver) (s : State) : (s.setDrv d).params = s.params := rfl
@[simp] theorem State.setDrv_text (d : Driver) (s : State) : (s.setDrv d).text = s.text := rfl
@[simp] theorem State.setDrv_turns (d : Driver) (s : State) : (s.setDrv d).turns = s.turns := rfl
@[simp] theorem State.setDrv_clock (d : Driver) (s : State) : (s.setDrv d).clock = s.clock := rfl
@[simp] theorem State.ret_radio (s : State) : s.ret.radio = s.radio := by
  unfold State.ret; split <;> rfl
@[simp] theorem State.ret_timer (s : State) : s.ret.timer = s.timer := by
  unfold State.ret; split <;> rfl
@[simp] theorem State.ret_ram (s : State) : s.ret.ram = s.ram := by
  unfold State.ret; split <;> rfl
@[simp] theorem State.ret_air (s : State) : s.ret.air = s.air := by
  unfold State.ret; split <;> rfl
@[simp] theorem State.ret_log (s : State) : s.ret.log = s.log := by
  unfold State.ret; split <;> rfl
@[simp] theorem State.ret_fault (s : State) : s.ret.fault = s.fault := by
  unfold State.ret; split <;> rfl
@[simp] theorem State.ret_params (s : State) : s.ret.params = s.params := by
  unfold State.ret; split <;> rfl
@[simp] theorem State.ret_text (s : State) : s.ret.text = s.text := by
  unfold State.ret; split <;> rfl
@[simp] theorem State.ret_turns (s : State) : s.ret.turns = s.turns := by
  unfold State.ret; split <;> rfl
@[simp] theorem State.ret_clock (s : State) : s.ret.clock = s.clock := by
  unfold State.ret; split <;> rfl
@[simp] theorem State.ret_drv_bufAddr (s : State) : s.ret.drv.bufAddr = s.drv.bufAddr := by
  unfold State.ret; split <;> rfl
@[simp] theorem State.ret_drv_pduLen (s : State) : s.ret.drv.pduLen = s.drv.pduLen := by
  unfold State.ret; split <;> rfl
@[simp] theorem State.ret_drv_txCount (s : State) : s.ret.drv.txCount = s.drv.txCount := by
  unfold State.ret; split <;> rfl
@[simp] theorem State.ret_drv_nMs (s : State) : s.ret.drv.nMs = s.drv.nMs := by
  unfold State.ret; split <;> rfl
@[simp] theorem State.ret_drv_v (s : State) : s.ret.drv.v = s.drv.v := by
  unfold State.ret; split <;> rfl
@[simp] theorem State.ret_drv_configured (s : State) : s.ret.drv.configured = s.drv.configured := by
  unfold State.ret; split <;> rfl
@[simp] theorem State.ret_drv_timerReady (s : State) : s.ret.drv.timerReady = s.drv.timerReady := by
  unfold State.ret; split <;> rfl
@[simp] theorem State.ret_drv_mode (s : State) : s.ret.drv.mode = s.drv.mode := by
  unfold State.ret; split <;> rfl
@[simp] theorem State.ret_drv_r (s : State) : s.ret.drv.r = s.drv.r := by
  unfold State.ret; split <;> rfl
@[simp] theorem State.ret_drv_iter (s : State) : s.ret.drv.iter = s.drv.iter := by
  unfold State.ret; split <;> rfl

/-- A return goes to the caller's next step (R22). -/
theorem State.ret_to_caller (s : State) (q : Seq) (rest : List Seq) (h : s.drv.callers = q :: rest) :
    s.ret.drv.seq = q ∧ s.ret.drv.callers = rest := by
  unfold State.ret; rw [h]; exact ⟨rfl, rfl⟩

@[simp] theorem State.passTurn_drv (s : State) : s.passTurn.drv = s.drv := rfl
@[simp] theorem State.passTurn_radio (s : State) : s.passTurn.radio = s.radio := rfl
@[simp] theorem State.passTurn_timer (s : State) : s.passTurn.timer = s.timer := rfl
@[simp] theorem State.passTurn_ram (s : State) : s.passTurn.ram = s.ram := rfl
@[simp] theorem State.passTurn_air (s : State) : s.passTurn.air = s.air := rfl
@[simp] theorem State.passTurn_log (s : State) : s.passTurn.log = s.log := rfl
@[simp] theorem State.passTurn_fault (s : State) : s.passTurn.fault = s.fault := rfl
@[simp] theorem State.passTurn_params (s : State) : s.passTurn.params = s.params := rfl
@[simp] theorem State.passTurn_text (s : State) : s.passTurn.text = s.text := rfl
@[simp] theorem State.passTurn_turns (s : State) : s.passTurn.turns = s.turns.tail := rfl
@[simp] theorem State.passTurn_clock (s : State) : s.passTurn.clock = s.clock + 1 := rfl
@[simp] theorem State.emitReport_drv (c : Word) (s : State) : (s.emitReport c).drv = s.drv := by
  unfold State.emitReport; split <;> rfl
@[simp] theorem State.emitReport_radio (c : Word) (s : State) : (s.emitReport c).radio = s.radio := by
  unfold State.emitReport; split <;> rfl
@[simp] theorem State.emitReport_timer (c : Word) (s : State) : (s.emitReport c).timer = s.timer := by
  unfold State.emitReport; split <;> rfl
@[simp] theorem State.emitReport_ram (c : Word) (s : State) : (s.emitReport c).ram = s.ram := by
  unfold State.emitReport; split <;> rfl
@[simp] theorem State.emitReport_air (c : Word) (s : State) : (s.emitReport c).air = s.air := by
  unfold State.emitReport; split <;> rfl
@[simp] theorem State.emitReport_fault (c : Word) (s : State) : (s.emitReport c).fault = s.fault := by
  unfold State.emitReport; split <;> rfl
@[simp] theorem State.emitReport_params (c : Word) (s : State) : (s.emitReport c).params = s.params := by
  unfold State.emitReport; split <;> rfl
@[simp] theorem State.emitReport_text (c : Word) (s : State) : (s.emitReport c).text = s.text := by
  unfold State.emitReport; split <;> rfl
@[simp] theorem State.emitReport_turns (c : Word) (s : State) : (s.emitReport c).turns = s.turns := by
  unfold State.emitReport; split <;> rfl
@[simp] theorem State.emitReport_clock (c : Word) (s : State) : (s.emitReport c).clock = s.clock := by
  unfold State.emitReport; split <;> rfl

/-- A report is appended or dropped (R234). -/
theorem State.emitReport_log (c : Word) (s : State) :
    (s.emitReport c).log = s.log ++ [⟨c⟩] ∨ (s.emitReport c).log = s.log := by
  unfold State.emitReport; split
  · exact .inl rfl
  · exact .inr rfl

/-! ## The sequence pointer -/

/-- Outside `encode` the next step is the next line (R22). -/
theorem Seq.next_of_not_encode (q : Seq) (h : ∀ name, q.proc ≠ .encode name) :
    q.next = { q with line := q.line + 1, sub := 0 } := by
  unfold Seq.next; split
  · rename_i name hq; exact absurd hq (h name)
  · rfl

/-- The next step is in the same procedure (R22). -/
@[simp] theorem Seq.next_proc (q : Seq) : q.next.proc = q.proc := by
  unfold Seq.next; split
  · split <;> simp_all
  · rfl

end Sys2Proof.Machine
end

