-- ==== Sys2Proof/Laws/Ops.lean ====
section
/-!
SUPPORT. What each shared operation can do, said once: the checked writes, the event operations, the DRIVER's step and the
machine's step. Later proofs cite these and do not unfold the operations.
-/

namespace Sys2Proof.Machine

/-! ## Checked writes -/

/-- A radio configuration write raises a fault, or finds an idle radio and the block's word, and stores. -/
theorem configWrite_cases (addr admitted data : Word) (stored : Radio) (s t : State)
    (h : configWrite addr admitted data stored s = .next t) :
    (∃ m, t = s.raise m) ∨ (s.radio.rs = .idle ∧ data = admitted ∧ t = ({ s with radio := stored }).advance) := by
  unfold configWrite fail at h
  split at h
  · cases h; exact .inl ⟨_, rfl⟩
  · rename_i hrs
    split at h
    · cases h; exact .inl ⟨_, rfl⟩
    · rename_i hd
      cases h; exact .inr ⟨not_not.mp hrs, not_not.mp hd, rfl⟩

/-- A timer configuration write raises a fault, or finds a stopped timer and the block's word, and stores. -/
theorem timerConfigWrite_cases (addr admitted data : Word) (stored : Timer) (s t : State)
    (h : timerConfigWrite addr admitted data stored s = .next t) :
    (∃ m, t = s.raise m) ∨
      (s.timer.running = false ∧ data = admitted ∧ t = ({ s with timer := stored }).advance) := by
  unfold timerConfigWrite fail at h
  split at h
  · cases h; exact .inl ⟨_, rfl⟩
  · rename_i hr
    split at h
    · cases h; exact .inl ⟨_, rfl⟩
    · rename_i hd
      cases h; exact .inr ⟨by simpa using hr, not_not.mp hd, rfl⟩

/-- A timer task raises a fault, or finds the word 1 and takes effect. -/
theorem timerTask_cases (addr data : Word) (started : Timer) (s t : State)
    (h : timerTask addr data started s = .next t) :
    (∃ m, t = s.raise m) ∨ (data = taskWord ∧ t = ({ s with timer := started }).advance) := by
  unfold timerTask fail at h
  split at h
  · cases h; exact .inl ⟨_, rfl⟩
  · rename_i hd
    cases h; exact .inr ⟨not_not.mp hd, rfl⟩

/-- An event write raises a fault, or finds the word 0 and clears the flag. -/
theorem clearEvent_cases (addr data : Word) (cleared s t : State) (h : clearEvent addr data cleared s = .next t) :
    (∃ m, t = s.raise m) ∨ (data = clearWord ∧ t = cleared.advance) := by
  unfold clearEvent fail at h
  split at h
  · cases h; exact .inl ⟨_, rfl⟩
  · rename_i hd
    cases h; exact .inr ⟨not_not.mp hd, rfl⟩

/-- An event read sets `v` and goes on. -/
theorem readEvent_cases (e : Event) (s t : State) (h : readEvent e s = .next t) :
    t = ({ s with drv := { s.drv with v := some (flagWord (s.eventFlag e)) } }).advance := by
  cases h; rfl

/-- An `STB` raises a fault, or carries a byte to an address of the RAM window that is not being sent, and stores it. -/
theorem execStb_cases (addr data : Word) (s t : State) (h : execStb addr data s = .next t) :
    (∃ m, t = s.raise m) ∨
      (data.toNat < 256 ∧ inRam addr.toNat = true ∧ racesLatch s addr = false ∧
        t = ({ s with ram := Memory.write s.ram addr.toNat (dataByte data) }).advance) := by
  unfold execStb fail at h
  split at h
  · cases h; exact .inl ⟨_, rfl⟩
  · rename_i hd
    split at h
    · cases h; exact .inl ⟨_, rfl⟩
    · rename_i hr
      split at h
      · cases h; exact .inl ⟨_, rfl⟩
      · rename_i hl
        cases h
        exact .inr ⟨by omega, by simpa using hr, by simpa using hl, rfl⟩

/-- `START` raises a fault, or finds the radio ready and a packet in RAM, and latches it. -/
theorem execTrigRadioStart_cases (data : Word) (s t : State) (h : execTrigRadioStart data s = .next t) :
    (∃ m, t = s.raise m) ∨
      (∃ ptr, s.radio.rs = .ready ∧ data = taskWord ∧ s.radio.packetptr = some ptr ∧ packetInRam s ptr = true ∧
        t = ({ s with radio := { s.radio with rs := .transmitting (latchAt s ptr) } }).advance) := by
  unfold execTrigRadioStart fail at h
  split at h
  · cases h; exact .inl ⟨_, rfl⟩
  · rename_i hrs
    split at h
    · cases h; exact .inl ⟨_, rfl⟩
    · rename_i hd
      split at h
      · cases h; exact .inl ⟨_, rfl⟩
      · rename_i ptr hp
        split at h
        · rename_i hin
          cases h
          exact .inr ⟨ptr, not_not.mp hrs, not_not.mp hd, hp, hin, rfl⟩
        · cases h; exact .inl ⟨_, rfl⟩

/-- `TXEN` raises a fault, holds in `Disabled`, or starts an idle radio. -/
theorem execTrigRadioTxen_cases (data : Word) (s t : State) (h : execTrigRadioTxen data s = .next t) :
    (∃ m, t = s.raise m) ∨ (s.radio.rs = .disabled ∧ data = taskWord ∧ t = s) ∨
      (s.radio.rs = .idle ∧ data = taskWord ∧ t = ({ s with radio := { s.radio with rs := .enabling } }).advance) := by
  unfold execTrigRadioTxen fail at h
  split at h
  · rename_i hrs
    split at h
    · cases h; exact .inl ⟨_, rfl⟩
    · rename_i hd
      cases h; exact .inr (.inr ⟨hrs, not_not.mp hd, rfl⟩)
  · rename_i hrs
    split at h
    · cases h; exact .inl ⟨_, rfl⟩
    · rename_i hd
      cases h; exact .inr (.inl ⟨hrs, not_not.mp hd, rfl⟩)
  all_goals (cases h; exact .inl ⟨_, rfl⟩)

/-- `DISABLE` raises a fault, or takes an ended radio to `Disabled`. -/
theorem execTrigRadioDisable_cases (data : Word) (s t : State) (h : execTrigRadioDisable data s = .next t) :
    (∃ m, t = s.raise m) ∨
      (s.radio.rs = .ended ∧ data = taskWord ∧ t = ({ s with radio := { s.radio with rs := .disabled } }).advance) := by
  unfold execTrigRadioDisable fail at h
  split at h
  · cases h; exact .inl ⟨_, rfl⟩
  · rename_i hrs
    split at h
    · cases h; exact .inl ⟨_, rfl⟩
    · rename_i hd
      cases h; exact .inr ⟨not_not.mp hrs, not_not.mp hd, rfl⟩

/-! ## Decoding and running an operation word -/

/-- An operation word raises `F_UNADMITTED`, or runs what it spells. -/
theorem runCode_cases (c : Code) (s : State) :
    (decode c = none ∧ runCode c s = .next (s.raise (noSuchOperation c))) ∨
      ∃ i, decode c = some i ∧ runCode c s = exec i s := by
  unfold runCode fail
  split
  · rename_i h; exact .inl ⟨h, rfl⟩
  · rename_i i h; exact .inr ⟨i, h, rfl⟩

/-- A polling read leaves the state of the read, at the next line or still at the `WAIT`. -/
theorem stayUnlessSet_cases (q : Seq) (o : Result) (t : State) (h : stayUnlessSet q o = .next t) :
    ∃ u, o = .next u ∧ (t = u ∨ t = u.setSeq q) := by
  cases o with
  | next u =>
    simp only [stayUnlessSet] at h
    split at h
    · cases h; exact ⟨_, rfl, .inr rfl⟩
    · cases h; exact ⟨_, rfl, .inl rfl⟩
  | fault f => simp [stayUnlessSet] at h
  | refused r => simp [stayUnlessSet] at h

/-! ## The machine's step -/

/-- A step with a next state starts unfaulted, and it is a DRIVER step, a RADIO step, a `Tick`, or the turn of an agent that has no
step; then the turn passes. -/
theorem step_cases (s t : State) (h : step s = .next t) :
    s.fault = none ∧
      ((s.nextAgent = .driver ∧ driverEnabled s = true ∧ ∃ u, driverStep s = .next u ∧ t = u.passTurn) ∨
        (s.nextAgent = .radio ∧ radioEnabled s = true ∧ t = (radioStep s).passTurn) ∨
        (s.nextAgent = .timer ∧ s.timer.running = true ∧ t = (tick s).passTurn) ∨
        t = s.passTurn) := by
  unfold step at h
  split at h
  · cases h
  · rename_i hf
    refine ⟨hf, ?_⟩
    have idle : ∀ {u : State}, idleTurn s = .next u → u = s.passTurn := by
      intro u hu
      unfold idleTurn at hu
      split at hu
      · cases hu
      · cases hu; rfl
    unfold agentTurn at h
    split at h
    · rename_i ha
      split at h
      · rename_i he
        cases hd : driverStep s with
        | next u =>
          rw [hd] at h
          simp only [passTurnOf, Host.Outcome.next.injEq] at h
          exact .inl ⟨ha, he, u, rfl, h.symm⟩
        | fault f => rw [hd] at h; cases h
        | refused r => rw [hd] at h; cases h
      · exact .inr (.inr (.inr (idle h)))
    · rename_i ha
      split at h
      · rename_i he
        cases h; exact .inr (.inl ⟨ha, he, rfl⟩)
      · exact .inr (.inr (.inr (idle h)))
    · rename_i ha
      split at h
      · rename_i he
        cases h; exact .inr (.inr (.inl ⟨ha, he, rfl⟩))
      · exact .inr (.inr (.inr (idle h)))

/-- A DRIVER step is a local computation, an operation word, a polling read, or nothing. -/
theorem driverStep_cases (s t : State) (h : driverStep s = .next t) :
    (lineAt s = .exit ∧ t = s) ∨ (lineAt s = .compute t) ∨ (∃ c, lineAt s = .op c ∧ runCode c s = .next t) ∨
      ∃ c u, lineAt s = .poll c ∧ runCode c s = .next u ∧ (t = u ∨ t = u.setSeq s.drv.seq) := by
  unfold driverStep at h
  split at h
  · rename_i hl; cases h; exact .inl ⟨hl, rfl⟩
  · rename_i c hl; exact .inr (.inr (.inl ⟨c, hl, h⟩))
  · rename_i c hl
    obtain ⟨u, hu, ht⟩ := stayUnlessSet_cases _ _ _ h
    exact .inr (.inr (.inr ⟨c, u, hl, hu, ht⟩))
  · rename_i u hl; cases h; exact .inr (.inl hl)

end Sys2Proof.Machine
end

