-- ==== Sys2Proof/Laws/Run.lean ====
section
/-!
SUPPORT. One DRIVER step by the kind of its line, and runs of the machine one step at a time: what the provers cite instead of
unfolding `driverStep` and `Host.Core.run`.
-/

namespace Sys2Proof

/-- An address of the RAM window selects the row of `STB` (30_encoding.md R98, R102 row 30). -/
theorem findRow_stb (a : Word) (lo : 0x20000000 ≤ a.toNat) (hi : a.toNat ≤ 0x2001FFFF) : findRow .write a = some stbRow := by
  have bits : ∀ i : Nat, i < 32 → (0xFFFE0000#32).getLsbD i = decide (17 ≤ i) := by decide
  have shifted : a &&& 0xFFFE0000#32 = (a >>> 17) <<< 17 := by
    apply BitVec.eq_of_getLsbD_eq
    intro i hi
    rw [BitVec.getLsbD_and, BitVec.getLsbD_shiftLeft, BitVec.getLsbD_ushiftRight, bits i hi]
    by_cases h : i < 17
    · simp [h]
    · have : 17 + (i - 17) = i := by omega
      simp [h, hi, this]; omega
  have masked : a &&& 0xFFFE0000#32 = 0x20000000#32 := by
    rw [shifted]
    have top : a.toNat / 131072 = 4096 := by omega
    apply BitVec.eq_of_toNat_eq
    simp [BitVec.toNat_shiftLeft, BitVec.toNat_ushiftRight, Nat.shiftRight_eq_div_pow, Nat.shiftLeft_eq, top]
  have others : ∀ r ∈ radioTaskEventRows ++ radioRegisterRows ++ timerRows, r.hits .write a = false := by
    intro r hr
    have full : r.mask = 0xFFFFFFFF#32 ∧ (r.pattern &&& 0xFFFE0000#32) ≠ 0x20000000#32 := by
      have all : (radioTaskEventRows ++ radioRegisterRows ++ timerRows).all (fun r =>
          decide (r.mask = 0xFFFFFFFF#32) && decide ((r.pattern &&& 0xFFFE0000#32) ≠ 0x20000000#32)) = true := by decide
      simpa using List.all_eq_true.mp all r hr
    simp only [MapRow.hits, full.1, Bool.and_eq_false_iff, decide_eq_false_iff_not]
    right
    intro he
    have ones : a &&& 0xFFFFFFFF#32 = a := by
      have : (0xFFFFFFFF#32) = BitVec.allOnes 32 := by decide
      rw [this, BitVec.and_allOnes]
    rw [ones] at he
    rw [← he] at full
    exact full.2 masked
  unfold findRow admittedMap
  rw [List.find?_append, List.find?_eq_none.mpr (by intro r hr; simp [others r hr])]
  simp [stbRow, MapRow.hits, masked]

end Sys2Proof

namespace Sys2Proof.Machine

/-! ## One DRIVER step -/

/-- A line that issues an operation runs it. -/
theorem driverStep_issue {s : State} {i : Instr} (hl : lineAt s = .issue i) (hd : decode (encode i) = some i) :
    driverStep s = exec i s := by
  unfold driverStep; rw [hl]; simp only [Line.issue, runCode, hd]

/-- A `WAIT` reads its flag and goes on exactly if it is set. -/
theorem driverStep_await {s : State} {e : Event} (hf : s.fault = none) (hl : lineAt s = .await e) :
    driverStep s = .next (if s.eventFlag e then ({ s with drv := { s.drv with v := some 1 } }).advance
      else { s with drv := { s.drv with v := some 0 } }) := by
  have hd : decode (encode e.read) = some e.read := by cases e <;> rfl
  unfold driverStep; rw [hl]
  simp only [Line.await, runCode, hd]
  cases e <;> simp only [Event.read, exec, execRdRadioReady, execRdRadioEnd, execRdTimerCompare0, readEvent, stayUnlessSet]
  all_goals
    cases hfl : s.eventFlag _ <;> simp [flagWord, hf, State.advance, State.setSeq]

/-- A local computation leaves its state. -/
theorem driverStep_compute {s t : State} (hl : lineAt s = .compute t) : driverStep s = .next t := by
  unfold driverStep; rw [hl]

/-- An unfaulted state on the DRIVER's turn, with the DRIVER running and at a line, takes a DRIVER step. -/
theorem step_driver {s : State} (hf : s.fault = none) (ha : s.nextAgent = .driver) (he : driverEnabled s = true) :
    step s = passTurnOf (driverStep s) := by
  simp [step, agentTurn, hf, ha, he]

/-! ## Runs -/

/-- No step is no change. -/
theorem run_zero (s : State) : Host.Core.run Sys2Proof.core 0 s = .next s := rfl

/-- A run goes on from the next state. -/
theorem run_of_next {s t : State} (n : Nat) (h : step s = .next t) :
    Host.Core.run Sys2Proof.core (n + 1) s = Host.Core.run Sys2Proof.core n t := by
  have hc : Sys2Proof.core.step s = .next t := h
  simp only [Host.Core.run, hc]

/-- A run ends at a fault. -/
theorem run_of_fault {s : State} {f : Fault} (n : Nat) (h : step s = .fault f) :
    Host.Core.run Sys2Proof.core (n + 1) s = .fault f := by
  have hc : Sys2Proof.core.step s = .fault f := h
  simp only [Host.Core.run, hc]

end Sys2Proof.Machine
end

