-- ==== Sys2Proof/Laws/Fairness.lean ====
section
/-!
SUPPORT. Runs under a schedule: the step of each agent on its turn, what every step keeps, and what weak fairness to one agent
brings about.
-/

namespace Sys2Proof.Safety

open Sys2Proof.Machine

/-! ## The turn of each agent -/

theorem runUnder_zero (f : Nat → Agent) (s : State) : runUnder f s 0 = .next s := rfl

/-- A run goes on with the step of the agent the schedule names. -/
theorem runUnder_succ {f : Nat → Agent} {s t : State} {n : Nat} (h : runUnder f s n = .next t) :
    runUnder f s (n + 1) = stepAs (f n) t := by
  simp only [runUnder, h]

/-- Whether the DRIVER is at a line of its program does not depend on the turns. -/
theorem lineAt_exit_of_turns (s : State) (l : List Agent) : lineAt { s with turns := l } = .exit ↔ lineAt s = .exit := by
  have issued : ∀ i, Line.issue i ≠ .exit := fun _ h => by cases h
  unfold lineAt
  cases hp : s.drv.seq.proc with
  | main => simp only [mainLine]; repeat' split
            all_goals simp_all [Line.raise]
  | configure => simp only [configureLine]; repeat' split
                 all_goals simp_all [Line.raise]
  | transmit a => simp only [transmitLine]; repeat' split
                  all_goals simp_all [Line.raise, Line.await]
  | encode name => simp only [encodeLine]; repeat' split
                   all_goals simp_all
  | timerInit => simp only [timerInitLine]; repeat' split
                 all_goals simp_all
  | delayMs n => simp only [delayMsLine]; repeat' split
                 all_goals simp_all [Line.raise, Line.await]
  | halt => simp only []
  | foreign => simp only [foreignLine]

theorem driverEnabled_of_turns (s : State) (l : List Agent) : driverEnabled { s with turns := l } = driverEnabled s := by
  simp only [driverEnabled, ne_eq, lineAt_exit_of_turns]

/-- The turn of an enabled DRIVER in an unfaulted state. -/
theorem stepAs_driver {s : State} (hf : s.fault = none) (he : driverEnabled s = true) :
    stepAs .driver s = passTurnOf (driverStep { s with turns := [.driver] }) :=
  step_driver hf rfl ((driverEnabled_of_turns s _).trans he)

/-- The turn of an enabled RADIO in an unfaulted state. -/
theorem stepAs_radio {s : State} (hf : s.fault = none) (he : radioEnabled s = true) :
    stepAs .radio s = .next { radioStep s with turns := [], clock := s.clock + 1 } := by
  cases hr : s.radio.rs <;>
    simp_all [stepAs, step, agentTurn, State.nextAgent, State.passTurn, radioEnabled, radioStep, rampUpDone, txDone, disableDone]

/-- The turn of a running TIMER in an unfaulted state. -/
theorem stepAs_timer {s : State} (hf : s.fault = none) (he : s.timer.running = true) :
    stepAs .timer s = .next { tick s with turns := [], clock := s.clock + 1 } := by
  simp [stepAs, step, agentTurn, State.nextAgent, State.passTurn, hf, he, tick]

/-- The turn of an agent without a step passes, while the DRIVER is running. -/
theorem step_idle {s : State} (hf : s.fault = none) (hm : s.drv.mode = .running) (he : enabled s s.nextAgent = false) :
    step s = .next s.passTurn := by
  cases ha : s.nextAgent <;> rw [ha] at he <;> simp only [enabled] at he <;> simp [step, agentTurn, idleTurn, hf, ha, hm, he]

theorem stepAs_idle {s : State} {a : Agent} (hf : s.fault = none) (hm : s.drv.mode = .running) (he : enabled s a = false) :
    stepAs a s = .next { s with turns := [], clock := s.clock + 1 } := by
  apply step_idle (s := { s with turns := [a] }) hf hm
  cases a with
  | driver => exact (driverEnabled_of_turns s _).trans he
  | radio => exact he
  | timer => exact he

/-- The RADIO's turn, with or without a step, while the DRIVER is running: what it leaves alone. -/
theorem stepAs_radio_keeps {s : State} (hf : s.fault = none) (hm : s.drv.mode = .running) :
    ∃ t, stepAs .radio s = .next t ∧ t.drv = s.drv ∧ t.radio = (radioStep s).radio ∧ t.air = (radioStep s).air ∧
      t.ram = s.ram ∧ t.timer = s.timer ∧ t.fault = none := by
  cases h : radioEnabled s with
  | true => exact ⟨_, stepAs_radio hf h, by simp only [radioStep]; split <;> simp_all [rampUpDone, txDone, disableDone]⟩
  | false =>
    have hs : radioStep s = s := by
      unfold radioEnabled at h; unfold radioStep; split at h <;> simp_all
    exact ⟨_, stepAs_idle hf hm h, rfl, by rw [hs], by rw [hs], rfl, rfl, hf⟩

/-- The TIMER's turn, with or without a step, while the DRIVER is running: what it leaves alone. -/
theorem stepAs_timer_keeps {s : State} (hf : s.fault = none) (hm : s.drv.mode = .running) :
    ∃ t, stepAs .timer s = .next t ∧ t.drv = s.drv ∧ t.radio = s.radio ∧ t.ram = s.ram ∧ t.air = s.air ∧ t.fault = none ∧
      t.timer = if s.timer.running then (tick s).timer else s.timer := by
  cases h : s.timer.running with
  | true => exact ⟨_, stepAs_timer hf h, rfl, rfl, rfl, rfl, hf, rfl⟩
  | false => exact ⟨_, stepAs_idle hf hm h, rfl, rfl, rfl, rfl, hf, rfl⟩

/-! ## The DRIVER's turn by the kind of its line -/

/-- The DRIVER is enabled at a line of its program. -/
theorem enabled_driver {s : State} (hm : s.drv.mode = .running) (hl : lineAt s ≠ .exit) : enabled s .driver = true := by
  simp [enabled, driverEnabled, hm, hl]

/-- A line that issues an operation runs it. -/
theorem stepAs_issue {s u : State} {i : Instr} (hf : s.fault = none) (hm : s.drv.mode = .running)
    (hl : lineAt { s with turns := [.driver] } = .issue i) (hd : decode (encode i) = some i)
    (hx : exec i { s with turns := [.driver] } = .next u) : stepAs .driver s = .next u.passTurn := by
  have he : driverEnabled s = true := by
    rw [← driverEnabled_of_turns s [.driver]]; simp [driverEnabled, hl, hm, Line.issue]
  rw [stepAs_driver hf he, driverStep_issue hl hd, hx]; rfl

/-- A local computation leaves its state. -/
theorem stepAs_compute {s u : State} (hf : s.fault = none) (hm : s.drv.mode = .running)
    (hl : lineAt { s with turns := [.driver] } = .compute u) : stepAs .driver s = .next u.passTurn := by
  have he : driverEnabled s = true := by
    rw [← driverEnabled_of_turns s [.driver]]; simp [driverEnabled, hl, hm]
  rw [stepAs_driver hf he, driverStep_compute hl]; rfl

/-- A `WAIT` whose flag is set goes on. -/
theorem stepAs_await_set {s : State} {e : Event} (hf : s.fault = none) (hm : s.drv.mode = .running)
    (hl : lineAt { s with turns := [.driver] } = .await e) (hs : s.eventFlag e = true) :
    stepAs .driver s = .next ({ s with turns := [.driver], drv := { s.drv with v := some 1 } } : State).advance.passTurn := by
  have he : driverEnabled s = true := by
    rw [← driverEnabled_of_turns s [.driver]]; simp [driverEnabled, hl, hm, Line.await]
  have hs' : ({ s with turns := [.driver] } : State).eventFlag e = true := by cases e <;> exact hs
  rw [stepAs_driver hf he, driverStep_await (s := { s with turns := [.driver] }) hf hl, hs']; rfl

/-- A `WAIT` whose flag is clear stays. -/
theorem stepAs_await_clear {s : State} {e : Event} (hf : s.fault = none) (hm : s.drv.mode = .running)
    (hl : lineAt { s with turns := [.driver] } = .await e) (hs : s.eventFlag e = false) :
    stepAs .driver s = .next ({ s with turns := [.driver], drv := { s.drv with v := some 0 } } : State).passTurn := by
  have he : driverEnabled s = true := by
    rw [← driverEnabled_of_turns s [.driver]]; simp [driverEnabled, hl, hm, Line.await]
  have hs' : ({ s with turns := [.driver] } : State).eventFlag e = false := by cases e <;> exact hs
  rw [stepAs_driver hf he, driverStep_await (s := { s with turns := [.driver] }) hf hl, hs']; rfl

/-! ## Invariance and progress -/

/-- What every scheduled step keeps holds at every step of the run. -/
theorem runUnder_keeps {f : Nat → Agent} {s : State} {P : State → Prop} (start : P s)
    (keep : ∀ n t, P t → ∃ t', stepAs (f n) t = .next t' ∧ P t') (n : Nat) : ∃ t, runUnder f s n = .next t ∧ P t := by
  induction n with
  | zero => exact ⟨s, rfl, start⟩
  | succ n ih =>
    obtain ⟨t, ht, hp⟩ := ih
    obtain ⟨t', ht', hp'⟩ := keep n t hp
    exact ⟨t', (runUnder_succ ht).trans ht', hp'⟩

/-- Weak fairness at work: where `P` lasts until `Q` whoever moves, agent `a` has a step wherever `P` holds, and its step from `P`
brings `Q`, a run to which `a`'s steps are weakly fair goes from `P` to `Q`. -/
theorem leads_to {f : Nat → Agent} {s u : State} {a : Agent} {n : Nat} (P Q : State → Prop) (fair : WeaklyFair f s a)
    (reached : runUnder f s n = .next u) (start : P u)
    (keep : ∀ t b, P t → ∃ t', stepAs b t = .next t' ∧ (P t' ∨ Q t'))
    (able : ∀ t, P t → enabled t a = true)
    (help : ∀ t t', P t → stepAs a t = .next t' → Q t') :
    ∃ m t, n ≤ m ∧ runUnder f s m = .next t ∧ Q t := by
  by_contra never
  have stays : ∀ k, ∃ t, runUnder f s (n + k) = .next t ∧ P t := by
    intro k
    induction k with
    | zero => exact ⟨u, reached, start⟩
    | succ k ih =>
      obtain ⟨t, ht, hp⟩ := ih
      obtain ⟨t', ht', hp' | hq⟩ := keep t (f (n + k)) hp
      · exact ⟨t', (runUnder_succ ht).trans ht', hp'⟩
      · exact absurd ⟨n + k + 1, t', by omega, (runUnder_succ ht).trans ht', hq⟩ never
  have at_step : ∀ m, n ≤ m → ∃ t, runUnder f s m = .next t ∧ P t := by
    intro m hm
    obtain ⟨t, ht⟩ := stays (m - n)
    rw [show n + (m - n) = m by omega] at ht
    exact ⟨t, ht⟩
  obtain ⟨m, hm, hfa⟩ := fair n (by
    intro m t hm ht
    obtain ⟨t', ht', hp⟩ := at_step m hm
    rw [ht] at ht'
    cases ht'
    exact able t hp)
  obtain ⟨t, ht, hp⟩ := at_step m hm
  obtain ⟨t', ht', _⟩ := keep t (f m) hp
  have hq : Q t' := help t t' hp (by rw [← hfa]; exact ht')
  exact never ⟨m + 1, t', by omega, (runUnder_succ ht).trans ht', hq⟩

end Sys2Proof.Safety
end

