-- ==== Sys2Proof/Laws/PerInstr.lean ====
section
/-!
SUPPORT. Per-instruction laws. Family `Encodable`: a well-formed operation has a word (WellFormed.lean), and that word is a bus
transaction exactly when the operation is no procedure (30_encoding.md R97, R109).
-/

namespace Sys2Proof

/-- The operation is a procedure of R97. -/
def isProcedure : Instr → Bool
  | .callMain => true
  | .callConfigure => true
  | .callTransmit _ => true
  | .callEncode _ => true
  | .callTimerInit => true
  | .callDelayMs _ => true
  | .halt => true
  | _ => false

/-- The word is a procedure selector. -/
def Code.isCall : Code → Bool
  | .bus _ => false
  | .call _ _ => true

/-- A well-formed operation has a word, of the format its kind has. -/
def Laws.Encodable.Statement (i : Instr) : Prop :=
  (wellFormed i = true → encodable i = true) ∧ (encode i).isCall = isProcedure i

theorem Laws.Encodable.trigRadioTxen (data : Word) : Laws.Encodable.Statement (.trigRadioTxen data) :=
  ⟨fun _ => rfl, rfl⟩

theorem Laws.Encodable.trigRadioStart (data : Word) : Laws.Encodable.Statement (.trigRadioStart data) :=
  ⟨fun _ => rfl, rfl⟩

theorem Laws.Encodable.trigRadioDisable (data : Word) : Laws.Encodable.Statement (.trigRadioDisable data) :=
  ⟨fun _ => rfl, rfl⟩

theorem Laws.Encodable.clrRadioReady (data : Word) : Laws.Encodable.Statement (.clrRadioReady data) :=
  ⟨fun _ => rfl, rfl⟩

theorem Laws.Encodable.rdRadioReady : Laws.Encodable.Statement (.rdRadioReady) :=
  ⟨fun _ => rfl, rfl⟩

theorem Laws.Encodable.clrRadioEnd (data : Word) : Laws.Encodable.Statement (.clrRadioEnd data) :=
  ⟨fun _ => rfl, rfl⟩

theorem Laws.Encodable.rdRadioEnd : Laws.Encodable.Statement (.rdRadioEnd) :=
  ⟨fun _ => rfl, rfl⟩

theorem Laws.Encodable.wrRadioPacketptr (a : Word) : Laws.Encodable.Statement (.wrRadioPacketptr a) :=
  ⟨fun _ => rfl, rfl⟩

theorem Laws.Encodable.wrRadioFrequency (data : Word) : Laws.Encodable.Statement (.wrRadioFrequency data) :=
  ⟨fun _ => rfl, rfl⟩

theorem Laws.Encodable.wrRadioTxpower (data : Word) : Laws.Encodable.Statement (.wrRadioTxpower data) :=
  ⟨fun _ => rfl, rfl⟩

theorem Laws.Encodable.wrRadioMode (data : Word) : Laws.Encodable.Statement (.wrRadioMode data) :=
  ⟨fun _ => rfl, rfl⟩

theorem Laws.Encodable.wrRadioPcnf0 (data : Word) : Laws.Encodable.Statement (.wrRadioPcnf0 data) :=
  ⟨fun _ => rfl, rfl⟩

theorem Laws.Encodable.wrRadioPcnf1 (data : Word) : Laws.Encodable.Statement (.wrRadioPcnf1 data) :=
  ⟨fun _ => rfl, rfl⟩

theorem Laws.Encodable.wrRadioBase0 (data : Word) : Laws.Encodable.Statement (.wrRadioBase0 data) :=
  ⟨fun _ => rfl, rfl⟩

theorem Laws.Encodable.wrRadioPrefix0 (data : Word) : Laws.Encodable.Statement (.wrRadioPrefix0 data) :=
  ⟨fun _ => rfl, rfl⟩

theorem Laws.Encodable.wrRadioTxaddress (data : Word) : Laws.Encodable.Statement (.wrRadioTxaddress data) :=
  ⟨fun _ => rfl, rfl⟩

theorem Laws.Encodable.wrRadioCrccnf (data : Word) : Laws.Encodable.Statement (.wrRadioCrccnf data) :=
  ⟨fun _ => rfl, rfl⟩

theorem Laws.Encodable.wrRadioCrcpoly (data : Word) : Laws.Encodable.Statement (.wrRadioCrcpoly data) :=
  ⟨fun _ => rfl, rfl⟩

theorem Laws.Encodable.wrRadioCrcinit (data : Word) : Laws.Encodable.Statement (.wrRadioCrcinit data) :=
  ⟨fun _ => rfl, rfl⟩

theorem Laws.Encodable.wrRadioDatawhiteiv (data : Word) : Laws.Encodable.Statement (.wrRadioDatawhiteiv data) :=
  ⟨fun _ => rfl, rfl⟩

theorem Laws.Encodable.trigTimerStart (data : Word) : Laws.Encodable.Statement (.trigTimerStart data) :=
  ⟨fun _ => rfl, rfl⟩

theorem Laws.Encodable.trigTimerStop (data : Word) : Laws.Encodable.Statement (.trigTimerStop data) :=
  ⟨fun _ => rfl, rfl⟩

theorem Laws.Encodable.trigTimerClear (data : Word) : Laws.Encodable.Statement (.trigTimerClear data) :=
  ⟨fun _ => rfl, rfl⟩

theorem Laws.Encodable.clrTimerCompare0 (data : Word) : Laws.Encodable.Statement (.clrTimerCompare0 data) :=
  ⟨fun _ => rfl, rfl⟩

theorem Laws.Encodable.rdTimerCompare0 : Laws.Encodable.Statement (.rdTimerCompare0) :=
  ⟨fun _ => rfl, rfl⟩

theorem Laws.Encodable.wrTimerMode (data : Word) : Laws.Encodable.Statement (.wrTimerMode data) :=
  ⟨fun _ => rfl, rfl⟩

theorem Laws.Encodable.wrTimerBitmode (data : Word) : Laws.Encodable.Statement (.wrTimerBitmode data) :=
  ⟨fun _ => rfl, rfl⟩

theorem Laws.Encodable.wrTimerPrescaler (data : Word) : Laws.Encodable.Statement (.wrTimerPrescaler data) :=
  ⟨fun _ => rfl, rfl⟩

theorem Laws.Encodable.wrTimerCc0 (t : Word) : Laws.Encodable.Statement (.wrTimerCc0 t) :=
  ⟨fun _ => rfl, rfl⟩

theorem Laws.Encodable.stb (addr : Word) (data : Word) : Laws.Encodable.Statement (.stb addr data) :=
  ⟨fun h => by simp only [wellFormed, Bool.and_eq_true] at h; exact h.1, rfl⟩

theorem Laws.Encodable.callMain : Laws.Encodable.Statement (.callMain) :=
  ⟨fun _ => rfl, rfl⟩

theorem Laws.Encodable.callConfigure : Laws.Encodable.Statement (.callConfigure) :=
  ⟨fun _ => rfl, rfl⟩

theorem Laws.Encodable.callTransmit (bufAddr : Word) : Laws.Encodable.Statement (.callTransmit bufAddr) :=
  ⟨fun _ => rfl, rfl⟩

theorem Laws.Encodable.callEncode (name : List Byte) : Laws.Encodable.Statement (.callEncode name) :=
  ⟨fun _ => rfl, rfl⟩

theorem Laws.Encodable.callTimerInit : Laws.Encodable.Statement (.callTimerInit) :=
  ⟨fun _ => rfl, rfl⟩

theorem Laws.Encodable.callDelayMs (n : Word) : Laws.Encodable.Statement (.callDelayMs n) :=
  ⟨fun _ => rfl, rfl⟩

theorem Laws.Encodable.halt : Laws.Encodable.Statement (.halt) :=
  ⟨fun _ => rfl, rfl⟩

end Sys2Proof
end

