-- ==== Sys2Proof/Laws/Safety.lean ====
section
/-!
SUPPORT. Small lemmas of the terms in Sys2Proof/Safety.lean: what they depend on, and their arithmetic form.
-/

namespace Sys2Proof.Safety

open Sys2Proof.Machine

/-- Whether the block's configuration is held depends on the twelve configuration registers only. -/
@[simp] theorem blockConfigured_of_registers (r : Radio) (ptr : Option Word) (shorts inten : Word) (ready ended : Bool)
    (rs : RadioState) :
    Radio.blockConfigured ⟨r.mode, r.frequency, r.txpower, r.pcnf0, r.pcnf1, r.base0, r.prefix0, r.txaddress, r.crccnf, r.crcpoly,
      r.crcinit, r.datawhiteiv, ptr, shorts, inten, ready, ended, rs⟩ = r.blockConfigured := rfl

/-- What the buffer holds depends on RAM and the parameters only. -/
@[simp] theorem bufferHolds_of_ram (s : State) (d : Driver) (r : Radio) (t : Timer) (a : List AirFrame) (l : List Report)
    (f : Option FaultMark) (x : List TextLine) (tu : List Agent) (c k : Nat) (final : Bool) :
    bufferHolds ⟨d, r, t, s.ram, a, l, f, s.params, x, tu, c⟩ k final = bufferHolds s k final := rfl

/-- A name fits exactly up to 26 bytes (43_pdu_encoder.md R191). -/
theorem nameFits_iff (name : List Byte) : nameFits name = true ↔ name.length ≤ 26 := by
  simp only [nameFits, decide_eq_true_eq]; rfl

/-- The RAM window as numbers (20_memory.md R70). -/
theorem inRam_iff (a : Nat) : inRam a = true ↔ 0x20000000 ≤ a ∧ a ≤ 0x2001FFFF := by
  simp only [inRam, Bool.and_eq_true, decide_eq_true_eq]; rfl

/-- The placing of the buffer as numbers (20_memory.md R72). -/
theorem bufferPlaced_iff (p : Params) :
    bufferPlaced p = true ↔ (p.bufBase.toNat % 4 = 0 ∧ 0x20000000 ≤ p.bufBase.toNat) ∧ p.bufBase.toNat + 39 - 1 ≤ 0x2001FFFF := by
  simp only [bufferPlaced, Bool.and_eq_true, decide_eq_true_eq]; rfl

/-- The encoder's bytes number `13 + n` (43_pdu_encoder.md R196). -/
theorem encodeBytes_length (name : List Byte) : (encodeBytes name).length = 13 + name.length := by
  simp [encodeBytes, advertiserAddress, flagsAd, nameAdHeader]; omega

/-- One more iteration offers one more report where its count is a multiple of 100 (45_transmit_loop.md R233). -/
theorem reportsOffered_succ (n : Nat) :
    reportsOffered (n + 1) = reportsOffered n ++
      (if (BitVec.ofNat 32 (n + 1) : Word).toNat % Config.reportEvery = 0 then [Report.mk (BitVec.ofNat 32 (n + 1))] else []) := by
  unfold reportsOffered
  rw [List.range_succ, List.filter_append, List.map_append]
  congr 1
  by_cases h : (BitVec.ofNat 32 (n + 1) : Word).toNat % Config.reportEvery = 0
  · simp only [h, if_true, List.filter_cons, decide_true]; rfl
  · simp only [h, if_false, List.filter_cons, decide_false]; rfl

end Sys2Proof.Safety
end

