-- ==== Sys2Proof/Tests/Slice0.lean ====
section
/-!
SUPPORT. The model's own tests: well-formedness, decoding of words written out from 30_encoding.md, one step against the vectors of
95_test_vectors.md, and a witness for the hypotheses of every statement.
-/

open Sys2Proof Sys2Proof.Machine Sys2Proof.Safety

namespace Sys2Proof.Tests

/-! ## Helpers -/

/-- The answer is a next state with a property. -/
def nextSat (o : Result) (p : State → Bool) : Bool :=
  match o with
  | .next t => p t
  | _ => false

/-- The answer is the state `s` with the fault `m` and no other change. -/
def faultsOnly (o : Result) (s : State) (m : FaultMark) : Bool := nextSat o (fun t => decide (t = { s with fault := some m }))

/-- The reset state with the DRIVER at a position, a radio state, and the agents that move next. -/
def stateAt (q : Machine.Seq) (rs : RadioState) (turns : List Agent) : State :=
  { State.reset with
    drv := { State.reset.drv with seq := q, callers := [⟨.main, 3, 0⟩] }
    radio := { State.reset.radio with rs := rs }
    turns := turns }

/-- A radio that holds the block's words (R115). -/
def configuredRadio (rs : RadioState) : Radio :=
  { State.reset.radio with
    mode := 0x00000003
    frequency := 0x00000002
    pcnf0 := 0x00000108
    pcnf1 := 0x02030025
    base0 := 0x89BED600
    prefix0 := 0x0000008E
    txaddress := 0x00000000
    crccnf := 0x00000103
    crcpoly := 0x0000065B
    crcinit := 0x00555555
    txpower := 0x00000000
    datawhiteiv := 0x00000065
    rs := rs }

/-- The PDU of V-ENC-2, a name of no bytes. -/
def emptyPdu : List Byte := [0x42, 0x0B, 0xAA, 0xBB, 0xCC, 0xDD, 0xEE, 0xFF, 0x02, 0x01, 0x06, 0x01, 0x09]

/-- The PDU of V-ENC-1, the name "microbit". -/
def microbitPdu : List Byte :=
  [0x42, 0x13, 0xAA, 0xBB, 0xCC, 0xDD, 0xEE, 0xFF, 0x02, 0x01, 0x06, 0x09, 0x09, 0x6D, 0x69, 0x63, 0x72, 0x6F, 0x62, 0x69, 0x74]

/-- The reset state with `microbitPdu` in the buffer. -/
def pduState (rs : RadioState) : State :=
  { stateAt ⟨.foreign, 0, 0⟩ rs [.driver] with
    radio := { configuredRadio rs with packetptr := some 0x20000100 }
    ram := Memory.writeBytes [] 0x20000100 microbitPdu }

/-- A DRIVER at the only line of a foreign program. -/
def foreignState (l : TextLine) : State := { stateAt ⟨.foreign, 0, 0⟩ .idle [.driver] with text := [l] }

/-- The reset state with an empty name, an empty loop, and turns enough to reach the end of `main`. -/
def shortRun : State :=
  { State.reset with
    params := ⟨[], 0x20000100, some 0⟩
    turns := List.replicate 41 .driver }

/-- A launch state whose draws differ from those of `State.reset`. -/
def otherDraws : State :=
  { State.reset with
    radio := { State.reset.radio with mode := 0x0000000F, eventsReady := true, eventsEnd := true, datawhiteiv := 0x00000041 }
    timer := { State.reset.timer with count := 1, eventsCompare0 := true, bitmode := 3 }
    ram := [(0x20000200, 0x55)] }

/-! ## Well-formed and ill-formed operations -/

/-- R100: the admitted word is well-formed, another is refused. -/
theorem test_wellformed_tasks :
    (wellFormed (.trigRadioTxen 1) = true ∧ wellFormed (.trigRadioTxen 2) = false) ∧
      (wellFormed (.trigRadioStart 1) = true ∧ wellFormed (.trigRadioStart 0) = false) ∧
      (wellFormed (.trigRadioDisable 1) = true ∧ wellFormed (.trigRadioDisable 3) = false) ∧
      (wellFormed (.trigTimerStart 1) = true ∧ wellFormed (.trigTimerStart 0) = false) ∧
      (wellFormed (.trigTimerStop 1) = true ∧ wellFormed (.trigTimerStop 2) = false) ∧
      (wellFormed (.trigTimerClear 1) = true ∧ wellFormed (.trigTimerClear 0xFFFFFFFF) = false) := by decide

/-- R101: the admitted word is well-formed, another is refused. -/
theorem test_wellformed_events :
    (wellFormed (.clrRadioReady 0) = true ∧ wellFormed (.clrRadioReady 1) = false) ∧
      (wellFormed (.clrRadioEnd 0) = true ∧ wellFormed (.clrRadioEnd 1) = false) ∧
      (wellFormed (.clrTimerCompare0 0) = true ∧ wellFormed (.clrTimerCompare0 0x80000000) = false) := by decide

/-- R99, V-CFG-13, V-CFG-14, V-CFG-18: the admitted word is well-formed, another is refused. -/
theorem test_wellformed_radio_configuration :
    (wellFormed (.wrRadioFrequency 0x00000002) = true ∧ wellFormed (.wrRadioFrequency 0x00000050) = false) ∧
      (wellFormed (.wrRadioTxpower 0x00000000) = true ∧ wellFormed (.wrRadioTxpower 0x00000004) = false) ∧
      (wellFormed (.wrRadioMode 0x00000003) = true ∧ wellFormed (.wrRadioMode 0x00000004) = false) ∧
      (wellFormed (.wrRadioPcnf0 0x00000108) = true ∧ wellFormed (.wrRadioPcnf0 0x00000109) = false) ∧
      (wellFormed (.wrRadioPcnf1 0x02030025) = true ∧ wellFormed (.wrRadioPcnf1 0x02030026) = false) ∧
      (wellFormed (.wrRadioBase0 0x89BED600) = true ∧ wellFormed (.wrRadioBase0 0x89BED601) = false) ∧
      (wellFormed (.wrRadioPrefix0 0x0000008E) = true ∧ wellFormed (.wrRadioPrefix0 0x0000008F) = false) ∧
      (wellFormed (.wrRadioTxaddress 0x00000000) = true ∧ wellFormed (.wrRadioTxaddress 0x00000001) = false) ∧
      (wellFormed (.wrRadioCrccnf 0x00000103) = true ∧ wellFormed (.wrRadioCrccnf 0x00010103) = false) ∧
      (wellFormed (.wrRadioCrcpoly 0x0000065B) = true ∧ wellFormed (.wrRadioCrcpoly 0x0100065B) = false) ∧
      (wellFormed (.wrRadioCrcinit 0x00555555) = true ∧ wellFormed (.wrRadioCrcinit 0x00555554) = false) ∧
      (wellFormed (.wrRadioDatawhiteiv 0x00000025) = true ∧ wellFormed (.wrRadioDatawhiteiv 0x00000065) = false) := by decide

/-- R99: the admitted word is well-formed, another is refused. -/
theorem test_wellformed_timer_configuration :
    (wellFormed (.wrTimerMode 0x00000000) = true ∧ wellFormed (.wrTimerMode 0x00000001) = false) ∧
      (wellFormed (.wrTimerBitmode 0x00000003) = true ∧ wellFormed (.wrTimerBitmode 0x00000000) = false) ∧
      (wellFormed (.wrTimerPrescaler 0x00000004) = true ∧ wellFormed (.wrTimerPrescaler 0x00000005) = false) := by decide

/-- R96, R98: an address of the RAM window and one byte. -/
theorem test_wellformed_stb :
    wellFormed (.stb 0x20000000 0xFF) = true ∧ wellFormed (.stb 0x2001FFFF 0) = true ∧ wellFormed (.stb 0x20020000 0) = false ∧
      wellFormed (.stb 0x1FFFFFFF 0) = false ∧ wellFormed (.stb 0x20000100 0x100) = false := by decide

/-- R136, R211: any word. -/
theorem test_wellformed_open_operands :
    wellFormed (.wrRadioPacketptr 0x10000001) = true ∧ wellFormed (.wrTimerCc0 0xFFFFFFFF) = true ∧ wellFormed .rdRadioReady = true ∧
      wellFormed (.callDelayMs 0xFFFFFFFF) = true ∧ wellFormed .halt = true := by decide

/-! ## Decoding of words written out from R95, R97 and R102 -/

theorem test_decode_trig_radio_txen : decode (.bus 0x14000100000000001) = some (.trigRadioTxen 0x00000001) := by decide

theorem test_decode_trig_radio_start : decode (.bus 0x14000100800000001) = some (.trigRadioStart 0x00000001) := by decide

theorem test_decode_trig_radio_disable :
    decode (.bus 0x14000101000000001) = some (.trigRadioDisable 0x00000001) := by decide

theorem test_decode_clr_radio_ready : decode (.bus 0x14000110000000000) = some (.clrRadioReady 0) := by decide

theorem test_decode_rd_radio_ready : decode (.bus 0x04000110000000000) = some .rdRadioReady := by decide

theorem test_decode_clr_radio_end : decode (.bus 0x14000110C00000000) = some (.clrRadioEnd 0) := by decide

theorem test_decode_rd_radio_end : decode (.bus 0x04000110C00000000) = some .rdRadioEnd := by decide

theorem test_decode_wr_radio_packetptr :
    decode (.bus 0x14000150420000100) = some (.wrRadioPacketptr 0x20000100) := by decide

theorem test_decode_wr_radio_frequency :
    decode (.bus 0x14000150800000002) = some (.wrRadioFrequency 0x00000002) := by decide

theorem test_decode_wr_radio_txpower : decode (.bus 0x14000150C00000000) = some (.wrRadioTxpower 0x00000000) := by decide

theorem test_decode_wr_radio_mode : decode (.bus 0x14000151000000003) = some (.wrRadioMode 0x00000003) := by decide

theorem test_decode_wr_radio_pcnf0 : decode (.bus 0x14000151400000108) = some (.wrRadioPcnf0 0x00000108) := by decide

theorem test_decode_wr_radio_pcnf1 : decode (.bus 0x14000151802030025) = some (.wrRadioPcnf1 0x02030025) := by decide

theorem test_decode_wr_radio_base0 : decode (.bus 0x14000151C89BED600) = some (.wrRadioBase0 0x89BED600) := by decide

theorem test_decode_wr_radio_prefix0 : decode (.bus 0x1400015240000008E) = some (.wrRadioPrefix0 0x0000008E) := by decide

theorem test_decode_wr_radio_txaddress :
    decode (.bus 0x14000152C00000000) = some (.wrRadioTxaddress 0x00000000) := by decide

theorem test_decode_wr_radio_crccnf : decode (.bus 0x14000153400000103) = some (.wrRadioCrccnf 0x00000103) := by decide

theorem test_decode_wr_radio_crcpoly : decode (.bus 0x1400015380000065B) = some (.wrRadioCrcpoly 0x0000065B) := by decide

theorem test_decode_wr_radio_crcinit : decode (.bus 0x14000153C00555555) = some (.wrRadioCrcinit 0x00555555) := by decide

theorem test_decode_wr_radio_datawhiteiv :
    decode (.bus 0x14000155400000025) = some (.wrRadioDatawhiteiv 0x00000025) := by decide

theorem test_decode_trig_timer_start : decode (.bus 0x14000800000000001) = some (.trigTimerStart 1) := by decide

theorem test_decode_trig_timer_stop : decode (.bus 0x14000800400000001) = some (.trigTimerStop 1) := by decide

theorem test_decode_trig_timer_clear : decode (.bus 0x14000800C00000001) = some (.trigTimerClear 1) := by decide

theorem test_decode_clr_timer_compare0 : decode (.bus 0x14000814000000000) = some (.clrTimerCompare0 0) := by decide

theorem test_decode_rd_timer_compare0 : decode (.bus 0x04000814000000000) = some .rdTimerCompare0 := by decide

theorem test_decode_wr_timer_mode : decode (.bus 0x14000850400000000) = some (.wrTimerMode 0) := by decide

theorem test_decode_wr_timer_bitmode : decode (.bus 0x14000850800000003) = some (.wrTimerBitmode 3) := by decide

theorem test_decode_wr_timer_prescaler : decode (.bus 0x14000851000000004) = some (.wrTimerPrescaler 4) := by decide

theorem test_decode_wr_timer_cc0 : decode (.bus 0x140008540000186A0) = some (.wrTimerCc0 100000) := by decide

theorem test_decode_stb : decode (.bus 0x120000105000000DD) = some (.stb 0x20000105 0x000000DD) := by decide

theorem test_decode_call_main : decode (.call 0x01 .none) = some .callMain := by decide

theorem test_decode_call_configure : decode (.call 0x02 .none) = some .callConfigure := by decide

theorem test_decode_call_transmit : decode (.call 0x03 (.word 0x20000100)) = some (.callTransmit 0x20000100) := by decide

theorem test_decode_call_encode : decode (.call 0x04 (.bytes [0x41, 0x00])) = some (.callEncode [0x41, 0x00]) := by decide

theorem test_decode_call_timer_init : decode (.call 0x05 .none) = some .callTimerInit := by decide

theorem test_decode_call_delay_ms : decode (.call 0x06 (.word 100)) = some (.callDelayMs 100) := by decide

theorem test_decode_halt : decode (.call 0x07 .none) = some .halt := by decide

/-- One word of each family bit by bit: direction, address, data (R95); selector (R97). -/
theorem test_decode_bit_by_bit :
    decode (.bus (0b1#1 ++ 0b01000000000000000001000000001000#32 ++ 0b00000000000000000000000000000001#32)) = some (.trigRadioStart 1) ∧
    decode (.bus (0b0#1 ++ 0b01000000000000000001000100001100#32 ++ 0b00000000000000000000000000000000#32)) = some .rdRadioEnd ∧
    decode (.bus (0b1#1 ++ 0b01000000000000000001010100011000#32 ++ 0b00000010000000110000000000100101#32)) =
      some (.wrRadioPcnf1 0x02030025) ∧
    decode (.bus (0b1#1 ++ 0b01000000000000001000010100010000#32 ++ 0b00000000000000000000000000000100#32)) = some (.wrTimerPrescaler 4) ∧
    decode (.bus (0b1#1 ++ 0b00100000000000000000000100000010#32 ++ 0b00000000000000000000000010101010#32)) =
      some (.stb 0x20000102 0xAA) ∧
    decode (.call 0b00000110#8 (.word 7)) = some (.callDelayMs 7) := by decide

/-- R98, R102, V-CFG-16, V-TX-20, V-FLT-4, V-FLT-5, V-TMR-13: no operation of the block. -/
theorem test_decode_refuses :
    decode (.bus 0x04000151000000000) = none ∧ decode (.bus 0x04000155000000000) = none ∧ decode (.bus 0x04000100000000000) = none ∧
    decode (.bus 0x14000100400000001) = none ∧ decode (.bus 0x04000854000000000) = none ∧ decode (.bus 0x12002000000000000) = none ∧
    decode (.bus 0x13000000000000000) = none ∧ decode (.bus 0x02000010000000000) = none ∧ decode (.call 0x08 .none) = none ∧
    decode (.call 0x00 .none) = none ∧ decode (.call 0x03 .none) = none := by decide

/-- The table's words: the read row of an address with two rows, the admitted data word, a selector (notes/assumptions/22.md). -/
theorem test_table_words :
    decodeTableWord 32 0x4000110C = some .rdRadioEnd ∧ decodeTableWord 32 0x40001518 = some (.wrRadioPcnf1 0x02030025) ∧
    decodeTableWord 32 0x20000000 = some (.stb 0x20000000 0) ∧ decodeTableWord 8 7 = some .halt := by decide

/-- A word of the table is what the next step runs. -/
theorem test_fetch_word :
    nextSat (step (State.reset.withFetchWord 32 0x40001000)) (fun t => decide (t.radio.rs = .enabling)) = true ∧
    nextSat (step (State.reset.withFetchWord 8 7)) (fun t => decide (t.drv.mode = .halted)) = true := by decide

/-! ## One operation against the vectors -/

/-- V-TX-1. -/
theorem test_txen_idle :
    nextSat (exec (.trigRadioTxen 1) (stateAt ⟨.foreign, 0, 0⟩ .idle [])) (fun t => decide (t.radio.rs = .enabling ∧ t.drv.seq.line = 1)) = true := by decide

/-- V-TX-7, V-TX-8. -/
theorem test_txen_hold_and_busy :
    nextSat (exec (.trigRadioTxen 1) (stateAt ⟨.foreign, 0, 0⟩ .disabled [])) (fun t => decide (t = stateAt ⟨.foreign, 0, 0⟩ .disabled [])) = true ∧
      faultsOnly (exec (.trigRadioTxen 1) (stateAt ⟨.foreign, 0, 0⟩ .ready [])) (stateAt ⟨.foreign, 0, 0⟩ .ready [])
        (.unadmitted ⟨.write, 0x40001000, 1⟩ .txenWhileRadioBusy) = true := by decide

/-- V-TX-3. -/
theorem test_start_latches :
    nextSat (exec (.trigRadioStart 1) (pduState .ready)) (fun t => decide (t.radio.rs = .transmitting ⟨0x20000100, microbitPdu⟩)) = true := by decide

/-- V-TX-11, V-TX-14. -/
theorem test_start_bad_pointer :
    faultsOnly (exec (.trigRadioStart 1) (stateAt ⟨.foreign, 0, 0⟩ .ready [])) (stateAt ⟨.foreign, 0, 0⟩ .ready [])
        (.unadmitted ⟨.write, 0x40001008, 1⟩ .packetptrUnwritten) = true ∧
      (let s := { pduState .ready with
          radio := { configuredRadio .ready with packetptr := some 0x2001FFF0 }
          ram := [(0x2001FFF1, 0x25)] };
       faultsOnly (exec (.trigRadioStart 1) s) s (.badPacketptr 0x2001FFF0) = true) := by decide

/-- V-TX-5, V-TX-10. -/
theorem test_disable :
    nextSat (exec (.trigRadioDisable 1) (pduState .ended)) (fun t => decide (t.radio.rs = .disabled)) = true ∧
      faultsOnly (exec (.trigRadioDisable 1) (pduState .idle)) (pduState .idle) (.unadmitted ⟨.write, 0x40001010, 1⟩ .disableOutsideEnded) = true := by decide

/-- V-TX-16, V-TX-17, V-TX-18. -/
theorem test_clear_and_read_flags :
    (let s := { pduState .idle with radio := { configuredRadio .idle with eventsReady := true, eventsEnd := true } };
       nextSat (exec (.clrRadioReady 0) s) (fun t => decide (t.radio.eventsReady = false ∧ t.radio.eventsEnd = true)) = true ∧
       nextSat (exec .rdRadioEnd s) (fun t => decide (t.drv.v = some 1 ∧ t.radio.eventsEnd = true)) = true ∧
       nextSat (exec (.clrRadioEnd 0) s) (fun t => decide (t.radio.eventsEnd = false)) = true ∧
       nextSat (exec .rdRadioReady (pduState .idle)) (fun t => decide (t.drv.v = some 0)) = true ∧
       faultsOnly (exec (.clrRadioEnd 1) s) s (.unadmitted ⟨.write, 0x4000110C, 1⟩ .value) = true) := by decide

/-- V-TX-15. -/
theorem test_packetptr :
    nextSat (exec (.wrRadioPacketptr 0x20000100) (stateAt ⟨.foreign, 0, 0⟩ .disabled [])) (fun t => decide (t.radio.packetptr = some 0x20000100)) = true := by decide

/-- V-CFG-2. -/
theorem test_wr_radio_frequency :
    nextSat (exec (.wrRadioFrequency 0x00000002) State.reset) (fun t => decide (t.radio.frequency = 0x00000002)) = true := by decide

/-- V-CFG-11. -/
theorem test_wr_radio_txpower :
    nextSat (exec (.wrRadioTxpower 0x00000000) State.reset) (fun t => decide (t.radio.txpower = 0x00000000)) = true := by decide

/-- V-CFG-1. -/
theorem test_wr_radio_mode :
    nextSat (exec (.wrRadioMode 0x00000003) State.reset) (fun t => decide (t.radio.mode = 0x00000003)) = true := by decide

/-- V-CFG-3. -/
theorem test_wr_radio_pcnf0 :
    nextSat (exec (.wrRadioPcnf0 0x00000108) State.reset) (fun t => decide (t.radio.pcnf0 = 0x00000108)) = true := by decide

/-- V-CFG-4. -/
theorem test_wr_radio_pcnf1 :
    nextSat (exec (.wrRadioPcnf1 0x02030025) State.reset) (fun t => decide (t.radio.pcnf1 = 0x02030025)) = true := by decide

/-- V-CFG-5. -/
theorem test_wr_radio_base0 :
    nextSat (exec (.wrRadioBase0 0x89BED600) State.reset) (fun t => decide (t.radio.base0 = 0x89BED600)) = true := by decide

/-- V-CFG-6. -/
theorem test_wr_radio_prefix0 :
    nextSat (exec (.wrRadioPrefix0 0x0000008E) State.reset) (fun t => decide (t.radio.prefix0 = 0x0000008E)) = true := by decide

/-- V-CFG-7. -/
theorem test_wr_radio_txaddress :
    nextSat (exec (.wrRadioTxaddress 0x00000000) State.reset) (fun t => decide (t.radio.txaddress = 0x00000000)) = true := by decide

/-- V-CFG-8. -/
theorem test_wr_radio_crccnf :
    nextSat (exec (.wrRadioCrccnf 0x00000103) State.reset) (fun t => decide (t.radio.crccnf = 0x00000103)) = true := by decide

/-- V-CFG-9. -/
theorem test_wr_radio_crcpoly :
    nextSat (exec (.wrRadioCrcpoly 0x0000065B) State.reset) (fun t => decide (t.radio.crcpoly = 0x0000065B)) = true := by decide

/-- V-CFG-10. -/
theorem test_wr_radio_crcinit :
    nextSat (exec (.wrRadioCrcinit 0x00555555) State.reset) (fun t => decide (t.radio.crcinit = 0x00555555)) = true := by decide

/-- V-CFG-12. -/
theorem test_wr_radio_datawhiteiv :
    nextSat (exec (.wrRadioDatawhiteiv 0x00000025) State.reset) (fun t => decide (t.radio.datawhiteiv = 0x00000065)) = true := by decide

/-- V-CFG-13, V-CFG-15. -/
theorem test_configuration_refused :
    faultsOnly (exec (.wrRadioMode 4) State.reset) State.reset (.unadmitted ⟨.write, 0x40001510, 4⟩ .value) = true ∧
      faultsOnly (exec (.wrRadioPcnf1 0x02030025) (pduState .enabling)) (pduState .enabling)
        (.unadmitted ⟨.write, 0x40001518, 0x02030025⟩ .configWhileRadioBusy) = true := by decide

/-- V-TMR-1, R44, R46, V-TMR-2. -/
theorem test_timer_configuration :
    nextSat (exec (.wrTimerBitmode 3) State.reset) (fun t => decide (t.timer.width = 32)) = true ∧
      nextSat (exec (.wrTimerMode 0) State.reset) (fun t => t.timer.countsTicks) = true ∧
      nextSat (exec (.wrTimerPrescaler 4) State.reset) (fun t => decide (t.timer.tickHz = 1000000)) = true ∧
      (let s := { State.reset with timer := { State.reset.timer with running := true } };
       faultsOnly (exec (.wrTimerPrescaler 4) s) s (.unadmitted ⟨.write, 0x40008510, 4⟩ .configWhileTimerRuns) = true) := by decide

/-- V-TMR-5, R209, R210, V-TMR-7. -/
theorem test_timer_tasks :
    (let s := { State.reset with timer := { State.reset.timer with count := 5 } };
       nextSat (exec (.trigTimerClear 1) s) (fun t => decide (t.timer.count = 0 ∧ t.timer.eventsCompare0 = false)) = true ∧
       nextSat (exec (.trigTimerStart 1) s) (fun t => decide (t.timer.running = true ∧ t.timer.count = 5)) = true ∧
       nextSat (exec (.trigTimerStop 1) s) (fun t => decide (t.timer.running = false ∧ t.timer.count = 5)) = true ∧
       nextSat (exec (.wrTimerCc0 0x000186A0) s) (fun t => decide (t.timer.cc.toNat = 100000 ∧ t.timer.eventsCompare0 = false)) = true) := by decide

/-- R213, R214. -/
theorem test_timer_event :
    (let s := { State.reset with timer := { State.reset.timer with eventsCompare0 := true } };
       nextSat (exec .rdTimerCompare0 s) (fun t => decide (t.drv.v = some 1)) = true ∧
       nextSat (exec (.clrTimerCompare0 0) s) (fun t => decide (t.timer.eventsCompare0 = false)) = true) := by decide

/-- V-TMR-3, V-TMR-4. -/
theorem test_ticks :
    (let s := { State.reset with timer := { State.reset.timer with bitmode := 3, running := true, count := 999, cc := 1000 } };
       decide ((tick s).timer.count = 1000 ∧ (tick s).timer.eventsCompare0 = true) = true) ∧
      (let s := { State.reset with timer := { State.reset.timer with bitmode := 3, running := true, count := 0xFFFFFFFF, cc := 0 } };
       decide ((tick s).timer.count = 0 ∧ (tick s).timer.eventsCompare0 = true) = true) := by decide

/-- R199, V-FLT-6. -/
theorem test_stb :
    nextSat (exec (.stb 0x20000100 0x42) State.reset) (fun t => decide (t.ram = [(0x20000100, 0x42)])) = true ∧
      faultsOnly (exec (.stb 0x30000000 0) State.reset) State.reset (.unadmitted ⟨.write, 0x30000000, 0⟩ .address) = true := by decide

/-- V-TX-21, V-TX-22. -/
theorem test_stb_race :
    faultsOnly (exec (.stb 0x20000105 0) (pduState (.transmitting ⟨0x20000100, microbitPdu⟩)))
        (pduState (.transmitting ⟨0x20000100, microbitPdu⟩)) (.dmaRace 0x20000105) = true ∧
      nextSat (exec (.stb 0x20000115 0) (pduState (.transmitting ⟨0x20000100, microbitPdu⟩))) (fun t => decide (t.fault = none)) = true := by decide

/-- R97, R22. -/
theorem test_calls :
    nextSat (exec .callConfigure State.reset) (fun t => decide (t.drv.seq = ⟨.configure, 0, 0⟩ ∧ t.drv.callers = [⟨.main, 2, 0⟩])) = true ∧
      nextSat (exec (.callTransmit 0x20000100) State.reset) (fun t => decide (t.drv.seq = ⟨.transmit 0x20000100, 0, 0⟩)) = true ∧
      nextSat (exec (.callEncode [0x41]) State.reset) (fun t => decide (t.drv.seq = ⟨.encode [0x41], 1, 0⟩)) = true ∧
      nextSat (exec .callTimerInit State.reset) (fun t => decide (t.drv.seq = ⟨.timerInit, 1, 0⟩)) = true ∧
      nextSat (exec (.callDelayMs 2) State.reset) (fun t => decide (t.drv.seq = ⟨.delayMs 2, 0, 0⟩)) = true ∧
      nextSat (exec .callMain State.reset) (fun t => decide (t.drv.seq = ⟨.main, 1, 0⟩)) = true := by decide

/-- R235. -/
theorem test_halt :
    nextSat (exec .halt State.reset) (fun t => decide (t.drv.mode = .halted ∧ t.fault = none)) = true := by decide

/-! ## Steps of the agents and local computations -/

/-- V-TX-2, V-TX-6. -/
theorem test_radio_steps :
    nextSat (step (stateAt ⟨.foreign, 0, 0⟩ .enabling [.radio])) (fun t => decide (t.radio.rs = .ready ∧ t.radio.eventsReady = true)) = true ∧
      nextSat (step (stateAt ⟨.foreign, 0, 0⟩ .disabled [.radio])) (fun t => decide (t.radio.rs = .idle)) = true := by decide

/-- V-TMR-10, V-TMR-8. -/
theorem test_delay_overflow :
    nextSat (step (stateAt ⟨.delayMs 4294968, 1, 0⟩ .idle [.driver])) (fun t => decide (t.fault = some (.delayOverflow 4294968))) = true ∧
      nextSat (step (stateAt ⟨.delayMs 4294967, 1, 0⟩ .idle [.driver])) (fun t => decide (t.fault = none ∧ t.drv.nMs = some 4294967)) = true ∧
      compareTarget 4294967 = some 0xFFFFFED8 := by decide

/-- V-ENC-5. -/
theorem test_encode_refuses_27_bytes :
    nextSat (step (stateAt ⟨.encode (List.replicate 27 0x41), 1, 0⟩ .idle [.driver]))
        (fun t => decide (t.drv.r = some (.nameTooLong 27) ∧ t.ram = [] ∧ t.fault = none)) = true := by decide

/-- V-LOOP-6: the counter wraps. -/
theorem test_report :
    (let s := { stateAt ⟨.main, 9, 0⟩ .idle [.driver] with drv := { State.reset.drv with seq := ⟨.main, 9, 0⟩, txCount := some 0xFFFFFFFF } };
       nextSat (step s) (fun t => decide (t.drv.txCount = some 0)) = true) := by decide

/-- V-FLT-12. -/
theorem test_fault_stops :
    step { State.reset with fault := some (.dmaRace 0x20000105) } = .fault (.faulted (.dmaRace 0x20000105)) := rfl

/-- R246. -/
theorem test_codes :
    FaultMark.code (.unadmitted ⟨.read, 0x40001000, 0⟩ .noRow) = 2 ∧ FaultMark.code (.dmaRace 0) = 3 ∧ FaultMark.code (.badPacketptr 0) = 4 ∧
      FaultMark.code (.delayOverflow 0) = 5 ∧ FaultMark.code (.sequence .configureTwice) = 6 ∧ Fault.code .fatalHalt = 7 ∧
      EncodeResult.code (.nameTooLong 27) = some 1 := by decide

/-! ## PDU, CRC, whitening and frame -/

/-- V-ENC-1, V-ENC-2. -/
theorem test_pdu_bytes :
    encodeBytes [0x6D, 0x69, 0x63, 0x72, 0x6F, 0x62, 0x69, 0x74] = microbitPdu ∧ encodeBytes [] = emptyPdu := by decide

/-- V-CRC, V-CRC-1. -/
theorem test_crc :
    crc24 0x00065B 0x555555 [] = 0x555555 ∧ crc24 0x00065B 0x555555 (bitsOf [0x42]) = 0x552331 ∧
      crc24 0x00065B 0x555555 (bitsOf microbitPdu) = 0x36AC2F ∧ crc24Reflected (bitsOf microbitPdu) = 0xF4356C := by decide +kernel

/-- V-WHT-1. -/
theorem test_keystream :
    whiten 37 (List.replicate 64 false) = bitsOf [0x8D, 0xD2, 0x57, 0xA1, 0x3D, 0xA7, 0x66, 0xB0] ∧
      whiten 0 (List.replicate 64 false) = bitsOf [0x40, 0xB2, 0xBC, 0xC3, 0x1F, 0x37, 0x4A, 0x5F] := by decide +kernel

/-- V-FRM-2. -/
theorem test_frame_empty :
    frame emptyPdu = bitsOf [0xAA, 0xD6, 0xBE, 0x89, 0x8E, 0xCF, 0xD9, 0xFD, 0x1A, 0xF1, 0x7A, 0x88, 0x4F, 0x77, 0x30, 0x17, 0x49, 0x9F, 0xD4, 0xD2, 0xCF] := by decide +kernel

/-- V-FRM-1. -/
theorem test_frame_microbit :
    frame microbitPdu = bitsOf [0xAA, 0xD6, 0xBE, 0x89, 0x8E, 0xCF, 0xC1, 0xFD, 0x1A, 0xF1, 0x7A, 0x88, 0x4F, 0x77, 0x30, 0x17, 0x41, 0x9F, 0x1A, 0x91,
        0x80, 0x34, 0x86, 0xC9, 0xB9, 0xEA, 0x3F, 0x06, 0x2C] := by decide +kernel

/-- R105: the words assembled from the fields. -/
theorem test_words_of_the_configuration :
    [wordRadioMode, wordRadioFrequency, wordRadioPcnf0, wordRadioPcnf1, wordRadioBase0, wordRadioPrefix0, wordRadioTxaddress, wordRadioCrccnf,
        wordRadioCrcpoly, wordRadioCrcinit, wordRadioTxpower, wordRadioDatawhiteiv] =
      [0x3, 0x2, 0x108, 0x02030025, 0x89BED600, 0x8E, 0x0, 0x103, 0x65B, 0x555555, 0x0, 0x25] := by decide

/-! ## Witnesses: hypotheses of the statements, met together -/

/-- Hypotheses of `DecodeEncodeRoundTrip`. -/
theorem test_meets_decode_encode_round_trip :
    encodable (.trigRadioTxen 0xFFFFFFFF) = true ∧ encodable (.stb 0x20000000 0xFFFFFFFF) = true ∧ encodable (.stb 0x2001FFFF 0) = true := by decide

/-- Hypotheses of `DecodedWordIsItsEncoding`. -/
theorem test_meets_decoded_word_is_its_encoding :
    decode (.bus 0x1200001020000FFAA) = some (.stb 0x20000102 0x0000FFAA) ∧ decode (.call 0x03 (.word 5)) = some (.callTransmit 5) := by decide

/-- Hypotheses of `UnlistedTransactionFaults`. -/
theorem test_meets_unlisted_transaction_faults :
    (let s := foreignState (.op (.bus (packTransaction ⟨.write, 0x40001004, 1⟩)));
       Claims.driverMoves s ∧ lineAt s = .op (.bus (packTransaction ⟨.write, 0x40001004, 1⟩)) ∧
         ∀ r ∈ admittedMap, r.hits .write 0x40001004 = false) := ⟨⟨rfl, rfl, rfl⟩, rfl, by decide⟩

/-- Hypotheses of `StepRunsDecodedOperation`. -/
theorem test_meets_step_runs_decoded_operation :
    (let s := foreignState (.op (.bus 0x14000151000000003));
       Claims.driverMoves s ∧ lineAt s = .op (.bus 0x14000151000000003) ∧ decode (.bus 0x14000151000000003) = some (.wrRadioMode 3)) := ⟨⟨rfl, rfl, rfl⟩, rfl, by decide⟩

/-- Hypotheses of `WaitReadsAndStaysUntilSet`. -/
theorem test_meets_wait_reads_and_stays_until_set :
    (let s := foreignState (.wait .radioEnd);
       Claims.driverMoves s ∧ lineAt s = .await .radioEnd ∧ s.eventFlag .radioEnd = false) ∧
      (let s := { foreignState (.wait .timerCompare0) with timer := { State.reset.timer with eventsCompare0 := true } };
       Claims.driverMoves s ∧ lineAt s = .await .timerCompare0 ∧ s.eventFlag .timerCompare0 = true) := ⟨⟨⟨rfl, rfl, rfl⟩, rfl, rfl⟩, ⟨rfl, rfl, rfl⟩, rfl, rfl⟩

/-- Hypotheses of `SequencePointerMoves`. -/
theorem test_meets_sequence_pointer_moves : ∀ name, State.reset.drv.seq.proc ≠ .encode name := by intro name h; cases h

/-- Hypotheses of the two statements about radio configuration writes, each clause. -/
theorem test_meets_radio_config_writes :
    (State.reset.fault = none ∧ State.reset.radio.rs = .idle ∧ (0xFFFFFFFF : Word) ≠ 0x00000003) ∧
      ((pduState .enabling).fault = none ∧ (pduState .enabling).radio.rs ≠ .idle) := by decide

/-- Hypotheses of their clauses about the fields. -/
theorem test_meets_radio_config_writes_fields :
    (let r := configuredRadio .idle;
       r.mode = 0x00000003 ∧ r.txpower = 0x00000000 ∧ r.frequency = 0x00000002 ∧ r.pcnf0 = 0x00000108 ∧ r.pcnf1 = 0x02030025 ∧
         r.base0 = 0x89BED600 ∧ r.prefix0 = 0x0000008E ∧ r.crccnf = 0x00000103 ∧ r.crcpoly = 0x0000065B ∧ r.crcinit = 0x00555555 ∧
         r.datawhiteiv = 0x00000065) := by decide

/-- Hypotheses of `ConfigureTakesFourteenSteps`. -/
theorem test_meets_configure_takes_fourteen_steps :
    (let s := stateAt ⟨.configure, 0, 0⟩ .idle (List.replicate 14 .driver ++ []);
       s.fault = none ∧ s.drv.mode = .running ∧ s.drv.seq = ⟨.configure, 0, 0⟩ ∧ s.drv.callers = [⟨.main, 3, 0⟩] ∧ s.drv.configured = false ∧
         s.radio.rs = .idle ∧ s.turns = List.replicate 14 .driver ++ []) := by decide

/-- Hypotheses of `TxenByRadioState`. -/
theorem test_meets_txen_by_radio_state :
    (pduState .idle).radio.rs = .idle ∧ (pduState .disabled).radio.rs = .disabled ∧
      ((pduState .ended).fault = none ∧ (pduState .ended).radio.rs ≠ .idle ∧ (pduState .ended).radio.rs ≠ .disabled) := by decide

/-- Hypotheses of `StartLatchesThePacket`. -/
theorem test_meets_start_latches_the_packet :
    ((pduState .idle).fault = none ∧ (pduState .idle).radio.rs ≠ .ready) ∧
      ((stateAt ⟨.foreign, 0, 0⟩ .ready []).radio.rs = .ready ∧ (stateAt ⟨.foreign, 0, 0⟩ .ready []).radio.packetptr = none) ∧
      ((pduState .ready).radio.rs = .ready ∧ (pduState .ready).radio.packetptr = some 0x20000100 ∧ (pduState .ready).fault = none) ∧
      (pduState .ready).radio.pcnf1 = 0x02030025 := by decide

/-- The last packet that fits, and the first that does not: the two clauses meet. -/
theorem test_meets_start_latches_the_packet_at_the_end_of_ram :
    (let s := { pduState .ready with ram := [(0x2001FFFD, 0x02)] };
       ((0x2001FFFC : Word).toNat % 4 = 0 ∧ 0x2001FFFC + 1 + min (Memory.read s.ram 0x2001FFFD).toNat (field s.radio.pcnf1 0 8) ≤ 0x2001FFFF)) ∧
      (let s := { pduState .ready with ram := [(0x2001FFFD, 0x03)] };
       0x2001FFFC + 1 + min (Memory.read s.ram 0x2001FFFD).toNat (field s.radio.pcnf1 0 8) > 0x2001FFFF) := by decide

/-- Hypotheses of `DisableOnlyInEnded`. -/
theorem test_meets_disable_only_in_ended :
    (pduState .ended).radio.rs = .ended ∧ (pduState .idle).fault = none ∧ (pduState .idle).radio.rs ≠ .ended := by decide

/-- Hypotheses of `TaskAndEventWritesCheckTheirWord`. -/
theorem test_meets_task_and_event_writes_check_their_word :
    (0 : Word) ≠ 1 ∧ (2 : Word) ≠ 1 ∧ (1 : Word) ≠ 0 ∧ State.reset.fault = none := by decide

/-- Hypotheses of `RadioAgentSteps`. -/
theorem test_meets_radio_agent_steps :
    (let s := stateAt ⟨.main, 1, 0⟩ .enabling [.radio];
       s.fault = none ∧ s.nextAgent = .radio ∧ s.radio.rs = .enabling) ∧
      (let s := stateAt ⟨.main, 1, 0⟩ (.transmitting ⟨0x20000100, emptyPdu⟩) [.radio];
       s.nextAgent = .radio ∧ s.radio.rs = .transmitting ⟨0x20000100, emptyPdu⟩) ∧
      (stateAt ⟨.main, 1, 0⟩ .disabled [.radio]).radio.rs = .disabled := by decide

/-- Hypotheses of `TransmitSendsOneFrame`. -/
theorem test_meets_transmit_sends_one_frame :
    (let s := { pduState .idle with
          drv := { State.reset.drv with seq := ⟨.transmit 0x20000100, 0, 0⟩, callers := [⟨.main, 9, 0⟩], configured := true }
          turns := List.replicate 5 Agent.driver ++ [Agent.radio] ++ List.replicate 3 Agent.driver ++ [Agent.radio] ++ List.replicate 3 Agent.driver ++ [] };
       s.fault = none ∧ s.drv.mode = .running ∧ s.drv.seq = ⟨.transmit 0x20000100, 0, 0⟩ ∧ s.drv.callers = [⟨.main, 9, 0⟩] ∧
         s.drv.configured = true ∧ s.radio.rs = .idle ∧ packetInRam s 0x20000100 = true ∧ s.turns = (List.replicate 5 Agent.driver ++ [Agent.radio] ++ List.replicate 3 Agent.driver ++ [Agent.radio] ++ List.replicate 3 Agent.driver ++ [] : List Agent)) := ⟨rfl, rfl, rfl, rfl, rfl, rfl, by decide, rfl⟩

/-- Hypotheses of `WaitsEndOnceTheRadioSteps`. -/
theorem test_meets_waits_end_once_the_radio_steps :
    (let s := stateAt ⟨.transmit 0x20000100, 5, 0⟩ .enabling ([Agent.driver, Agent.timer] ++ [Agent.radio, Agent.driver] ++ []);
       s.fault = none ∧ s.drv.mode = .running ∧ Agent.radio ∉ [Agent.driver, Agent.timer] ∧ s.turns = ([Agent.driver, Agent.timer] ++ [Agent.radio, Agent.driver] ++ [] : List Agent) ∧
         s.drv.seq = ⟨.transmit 0x20000100, 5, 0⟩ ∧ s.radio.rs = .enabling ∧ s.radio.eventsReady = false) ∧
      (let s := stateAt ⟨.transmit 0x20000100, 8, 0⟩ (.transmitting ⟨0x20000100, emptyPdu⟩) ([] ++ [Agent.radio, Agent.driver] ++ []);
       s.fault = none ∧ s.drv.mode = .running ∧ s.turns = ([] ++ [Agent.radio, Agent.driver] ++ [] : List Agent) ∧ s.drv.seq = ⟨.transmit 0x20000100, 8, 0⟩ ∧
         s.radio.rs = .transmitting ⟨0x20000100, emptyPdu⟩ ∧ s.radio.eventsEnd = false) := ⟨⟨rfl, rfl, by decide, rfl, rfl, rfl, rfl⟩, rfl, rfl, rfl, rfl, rfl, rfl⟩

/-- A schedule that gives the three agents turns in rotation. -/
def rotation (n : Nat) : Agent := if n % 3 = 0 then .driver else if n % 3 = 1 then .radio else .timer

/-- `rotation` is weakly fair to every agent, whatever the run. -/
theorem rotation_fair (s : State) (a : Agent) : WeaklyFair rotation s a := by
  intro n _
  cases a with
  | driver => exact ⟨3 * n, by omega, if_pos (by omega)⟩
  | radio => exact ⟨3 * n + 1, by omega, by unfold rotation; rw [if_neg (by omega), if_pos (by omega)]⟩
  | timer => exact ⟨3 * n + 2, by omega, by unfold rotation; rw [if_neg (by omega), if_neg (by omega)]⟩

/-- A schedule that gives the DRIVER every turn. -/
def onlyDriver (_ : Nat) : Agent := .driver

/-- Hypotheses of `TransmitReturnsUnderFairness`. -/
theorem test_meets_transmit_returns_under_fairness :
    (let s := { pduState .idle with
          drv := { State.reset.drv with seq := ⟨.transmit 0x20000100, 0, 0⟩, callers := [⟨.main, 9, 0⟩], configured := true } };
       s.fault = none ∧ s.drv.mode = .running ∧ s.drv.seq = ⟨.transmit 0x20000100, 0, 0⟩ ∧ s.drv.callers = [⟨.main, 9, 0⟩] ∧
         s.drv.configured = true ∧ (s.radio.rs = .idle ∨ s.radio.rs = .disabled) ∧ packetInRam s 0x20000100 = true ∧
         HardwareLive rotation s ∧ DriverLive rotation s) := ⟨rfl, rfl, rfl, rfl, rfl, .inl rfl, by decide, ⟨rotation_fair _ _, rotation_fair _ _⟩, rotation_fair _ _⟩

/-- Hypotheses of `TransmitReturnsUnderFairness`. -/
theorem test_meets_transmit_returns_under_fairness_from_disabled :
    (let s := { pduState .disabled with
          drv := { State.reset.drv with seq := ⟨.transmit 0x20000100, 0, 0⟩, callers := [⟨.main, 9, 0⟩], configured := true } };
       s.fault = none ∧ s.drv.mode = .running ∧ s.drv.seq = ⟨.transmit 0x20000100, 0, 0⟩ ∧ s.drv.callers = [⟨.main, 9, 0⟩] ∧
         s.drv.configured = true ∧ (s.radio.rs = .idle ∨ s.radio.rs = .disabled) ∧ packetInRam s 0x20000100 = true ∧
         HardwareLive rotation s ∧ DriverLive rotation s) := ⟨rfl, rfl, rfl, rfl, rfl, .inr rfl, by decide, ⟨rotation_fair _ _, rotation_fair _ _⟩, rotation_fair _ _⟩

/-- Hypotheses of `WaitsHangWithoutTheirAgent`. -/
theorem test_meets_waits_hang_without_their_agent :
    (∀ n, onlyDriver n ≠ .radio) ∧ (∀ n, onlyDriver n ≠ .timer) ∧
      (let s := stateAt ⟨.transmit 0x20000100, 5, 0⟩ .enabling [];
       s.fault = none ∧ s.drv.mode = .running ∧ s.drv.seq = ⟨.transmit 0x20000100, 5, 0⟩ ∧ s.radio.eventsReady = false) ∧
      (let s := stateAt ⟨.transmit 0x20000100, 8, 0⟩ (.transmitting ⟨0x20000100, emptyPdu⟩) [];
       s.fault = none ∧ s.drv.mode = .running ∧ s.drv.seq = ⟨.transmit 0x20000100, 8, 0⟩ ∧ s.radio.eventsEnd = false) ∧
      (let s := stateAt ⟨.delayMs 1, 6, 0⟩ .idle [];
       s.fault = none ∧ s.drv.mode = .running ∧ s.drv.seq = ⟨.delayMs 1, 6, 0⟩ ∧ s.timer.eventsCompare0 = false) := ⟨fun _ h => (by cases h), fun _ h => (by cases h), ⟨rfl, rfl, rfl, rfl⟩, ⟨rfl, rfl, rfl, rfl⟩, rfl, rfl, rfl, rfl⟩

/-- Hypotheses of `FrameLengthInBits`. -/
theorem test_meets_frame_length_in_bits : emptyPdu.length = 2 + 11 ∧ ([0x42, 0x00] : List Byte).length = 2 + 0 := by decide

/-- Hypotheses of `ConfiguredRadioSendsTheFrame`. -/
theorem test_meets_configured_radio_sends_the_frame : (configuredRadio .ready).blockConfigured = true := by decide

/-- Hypotheses of `StbWritesOneByte`: below and above RAM, the last byte of a latched packet, and the first after it. -/
theorem test_meets_stb_writes_one_byte :
    State.reset.fault = none ∧ (0x1FFFFFFF : Word).toNat < 0x20000000 ∧ (0x20020000 : Word).toNat > 0x2001FFFF ∧
      (0x20000000 ≤ (0x20000100 : Word).toNat ∧ (0x20000114 : Word).toNat ≤ 0x2001FFFF ∧
        (0x20000100 : Word).toNat ≤ (0x20000114 : Word).toNat ∧ (0x20000114 : Word).toNat < (0x20000100 : Word).toNat + microbitPdu.length) ∧
      ¬((0x20000115 : Word).toNat < (0x20000100 : Word).toNat + microbitPdu.length) ∧ Memory.wf State.reset.ram = true := by decide

/-- Hypotheses of `StbCarriesOneByte`. -/
theorem test_meets_stb_carries_one_byte : 256 ≤ (0x00000100 : Word).toNat ∧ State.reset.fault = none := by decide

/-- Hypotheses of `EncodeFillsTheBuffer`. -/
theorem test_meets_encode_fills_the_buffer :
    (let s := stateAt ⟨.encode (List.replicate 26 0x41), 1, 0⟩ .idle (List.replicate (16 + 26) .driver ++ []);
       s.fault = none ∧ s.drv.mode = .running ∧ s.drv.seq = ⟨.encode (List.replicate 26 0x41), 1, 0⟩ ∧ s.drv.callers = [⟨.main, 3, 0⟩] ∧
         (List.replicate 26 (0x41 : Byte)).length ≤ 26 ∧ bufferPlaced s.params = true ∧ Memory.wf s.ram = true ∧ s.radio.rs = .idle ∧
         s.turns = List.replicate (16 + 26) .driver ++ []) := by decide

/-- Hypotheses of `EncodeRejectsLongNames`. -/
theorem test_meets_encode_rejects_long_names :
    (let s := stateAt ⟨.encode (List.replicate 27 0x41), 1, 0⟩ .idle [.driver];
       Claims.driverMoves s ∧ s.drv.seq = ⟨.encode (List.replicate 27 0x41), 1, 0⟩ ∧ s.drv.callers = [⟨.main, 3, 0⟩] ∧
         26 < (List.replicate 27 (0x41 : Byte)).length) := ⟨⟨rfl, rfl, rfl⟩, rfl, rfl, by decide⟩

/-- Hypotheses of `TimerConfigWrites`. -/
theorem test_meets_timer_config_writes :
    (State.reset.fault = none ∧ State.reset.timer.running = false ∧ (1 : Word) ≠ 0) ∧
      ({ State.reset.timer with running := true } : Timer).running = true := by decide

/-- Hypotheses of `TickCountsAndCompares`. -/
theorem test_meets_tick_counts_and_compares :
    (let s := { stateAt ⟨.main, 1, 0⟩ .idle [.timer] with timer := { State.reset.timer with bitmode := 3, running := true } };
       s.fault = none ∧ s.nextAgent = .timer ∧ s.timer.running = true ∧ s.timer.bitmode = 3) := by decide

/-- Hypotheses of `CompareComesAfterExactlyTheTarget`. -/
theorem test_meets_compare_comes_after_exactly_the_target :
    (let t := { State.reset.timer with bitmode := 3, cc := 1000 };
       t.bitmode = 3 ∧ t.count = 0 ∧ t.eventsCompare0 = false ∧ 1000 ≤ 2 ^ 32 ∧ t.cc ≠ 0) ∧ State.reset.timer.cc = 0 := by decide

/-- Hypotheses of `TimerInitTakesFourSteps`. -/
theorem test_meets_timer_init_takes_four_steps :
    (let s := stateAt ⟨.timerInit, 1, 0⟩ .idle (List.replicate 4 .driver ++ []);
       s.fault = none ∧ s.drv.mode = .running ∧ s.drv.seq = ⟨.timerInit, 1, 0⟩ ∧ s.drv.callers = [⟨.main, 3, 0⟩] ∧ s.timer.running = false ∧
         s.turns = List.replicate 4 .driver ++ []) := by decide

/-- Hypotheses of `DelayTakesItsTicks`. -/
theorem test_meets_delay_takes_its_ticks :
    (let s := { stateAt ⟨.delayMs 1, 0, 0⟩ .idle (List.replicate 6 Agent.driver ++ List.replicate ((1 : Word).toNat * 1000) Agent.timer ++ List.replicate 3 Agent.driver ++ []) with
          drv := { State.reset.drv with seq := ⟨.delayMs 1, 0, 0⟩, callers := [⟨.main, 12, 0⟩], timerReady := true }
          timer := { State.reset.timer with bitmode := 3 } };
       s.fault = none ∧ s.drv.mode = .running ∧ s.drv.seq = ⟨.delayMs 1, 0, 0⟩ ∧ s.drv.callers = [⟨.main, 12, 0⟩] ∧ s.drv.timerReady = true ∧
         s.timer.running = false ∧ s.timer.bitmode = 3 ∧ 1 ≤ (1 : Word).toNat ∧ (1 : Word).toNat * 1000 < 2 ^ 32 ∧ s.turns = (List.replicate 6 Agent.driver ++ List.replicate ((1 : Word).toNat * 1000) Agent.timer ++ List.replicate 3 Agent.driver ++ [] : List Agent)) := ⟨rfl, rfl, rfl, rfl, rfl, rfl, rfl, by decide, by decide, rfl⟩

/-- Hypotheses of `DelayReturnsUnderFairness`. -/
theorem test_meets_delay_returns_under_fairness :
    (let s := { stateAt ⟨.delayMs 1, 0, 0⟩ .idle [] with
          drv := { State.reset.drv with seq := ⟨.delayMs 1, 0, 0⟩, callers := [⟨.main, 12, 0⟩], timerReady := true }
          timer := { State.reset.timer with bitmode := 3 } };
       s.fault = none ∧ s.drv.mode = .running ∧ s.drv.seq = ⟨.delayMs 1, 0, 0⟩ ∧ s.drv.callers = [⟨.main, 12, 0⟩] ∧ s.drv.timerReady = true ∧
         s.timer.running = false ∧ s.timer.bitmode = 3 ∧ (1 : Word).toNat * 1000 < 2 ^ 32 ∧ HardwareLive rotation s ∧ DriverLive rotation s) := ⟨rfl, rfl, rfl, rfl, rfl, rfl, rfl, by decide, ⟨rotation_fair _ _, rotation_fair _ _⟩, rotation_fair _ _⟩

/-- Hypotheses of `DelayReturnsUnderFairness`. -/
theorem test_meets_delay_returns_under_fairness_at_zero :
    (let s := { stateAt ⟨.delayMs 0, 0, 0⟩ .idle [] with
          drv := { State.reset.drv with seq := ⟨.delayMs 0, 0, 0⟩, callers := [⟨.main, 12, 0⟩], timerReady := true }
          timer := { State.reset.timer with bitmode := 3 } };
       s.fault = none ∧ s.drv.mode = .running ∧ s.drv.seq = ⟨.delayMs 0, 0, 0⟩ ∧ s.drv.callers = [⟨.main, 12, 0⟩] ∧ s.drv.timerReady = true ∧
         s.timer.running = false ∧ s.timer.bitmode = 3 ∧ (0 : Word).toNat * 1000 < 2 ^ 32 ∧ HardwareLive rotation s ∧ DriverLive rotation s) := ⟨rfl, rfl, rfl, rfl, rfl, rfl, rfl, by decide, ⟨rotation_fair _ _, rotation_fair _ _⟩, rotation_fair _ _⟩

/-- Hypotheses of `DelayReturnsUnderFairness`. -/
theorem test_meets_delay_returns_under_fairness_at_the_largest :
    (let s := { stateAt ⟨.delayMs 4294967, 0, 0⟩ .idle [] with
          drv := { State.reset.drv with seq := ⟨.delayMs 4294967, 0, 0⟩, callers := [⟨.main, 12, 0⟩], timerReady := true }
          timer := { State.reset.timer with bitmode := 3 } };
       s.fault = none ∧ s.drv.mode = .running ∧ s.drv.seq = ⟨.delayMs 4294967, 0, 0⟩ ∧ s.drv.callers = [⟨.main, 12, 0⟩] ∧ s.drv.timerReady = true ∧
         s.timer.running = false ∧ s.timer.bitmode = 3 ∧ (4294967 : Word).toNat * 1000 < 2 ^ 32 ∧ HardwareLive rotation s ∧ DriverLive rotation s) := ⟨rfl, rfl, rfl, rfl, rfl, rfl, rfl, by decide, ⟨rotation_fair _ _, rotation_fair _ _⟩, rotation_fair _ _⟩

/-- Hypotheses of `DelayOverflowFaults`. -/
theorem test_meets_delay_overflow_faults :
    (let s := stateAt ⟨.delayMs 4294968, 1, 0⟩ .idle [.driver];
       Claims.driverMoves s ∧ s.drv.seq = ⟨.delayMs 4294968, 1, 0⟩ ∧ 4294968 ≤ (4294968 : Word).toNat) := ⟨⟨rfl, rfl, rfl⟩, rfl, by decide⟩

/-- Hypotheses of `HaltStopsTheDriver`. -/
theorem test_meets_halt_stops_the_driver :
    (let s := { stateAt ⟨.halt, 1, 0⟩ .enabling [.radio] with drv := { State.reset.drv with seq := ⟨.halt, 1, 0⟩, mode := .halted } };
       s.drv.mode = .halted ∧ s.fault = none ∧ s.nextAgent = .radio ∧ radioEnabled s = true ∧ step s = .next (radioStep s).passTurn) ∧
      (let s := { stateAt ⟨.halt, 1, 0⟩ .idle [.timer] with
          drv := { State.reset.drv with seq := ⟨.halt, 1, 0⟩, mode := .halted }
          timer := { State.reset.timer with running := true } };
       s.drv.mode = .halted ∧ s.fault = none ∧ s.nextAgent = .timer ∧ s.timer.running = true) := ⟨⟨rfl, rfl, rfl, rfl, rfl⟩, rfl, rfl, rfl, rfl⟩

/-- Hypotheses of `MachineStopsExactly`. -/
theorem test_meets_machine_stops_exactly :
    (({ State.reset with fault := some (.delayOverflow 4294968) } : State).fault = some (.delayOverflow 4294968)) ∧
      (let s := { State.reset with drv := { State.reset.drv with mode := .halted } };
       s.fault = none ∧ s.drv.mode = .halted ∧ radioEnabled s = false ∧ s.timer.running = false) ∧
      (State.reset.fault = none ∧ State.reset.drv.mode = .running) ∧
      radioEnabled (stateAt ⟨.halt, 1, 0⟩ .disabled []) = true := ⟨rfl, ⟨rfl, rfl, rfl, rfl⟩, ⟨rfl, rfl⟩, rfl⟩

/-- Hypotheses of `CallsOutOfOrderFault`. -/
theorem test_meets_calls_out_of_order_fault :
    (let s := stateAt ⟨.transmit 0x20000100, 0, 0⟩ .idle [.driver];
       Claims.driverMoves s ∧ s.drv.seq = ⟨.transmit 0x20000100, 0, 0⟩ ∧ s.drv.configured = false) ∧
      (let s := { stateAt ⟨.configure, 0, 0⟩ .idle [.driver] with drv := { State.reset.drv with seq := ⟨.configure, 0, 0⟩, configured := true } };
       Claims.driverMoves s ∧ s.drv.seq = ⟨.configure, 0, 0⟩ ∧ s.drv.configured = true) ∧
      (let s := stateAt ⟨.delayMs 0, 0, 0⟩ .idle [.driver];
       Claims.driverMoves s ∧ s.drv.seq = ⟨.delayMs 0, 0, 0⟩ ∧ s.drv.timerReady = false) := ⟨⟨⟨rfl, rfl, rfl⟩, rfl, rfl⟩, ⟨⟨rfl, rfl, rfl⟩, rfl, rfl⟩, ⟨rfl, rfl, rfl⟩, rfl, rfl⟩

/-- Hypotheses of `CounterAndReport`. -/
theorem test_meets_counter_and_report :
    (let s := { stateAt ⟨.main, 9, 0⟩ .idle [.driver] with drv := { State.reset.drv with seq := ⟨.main, 9, 0⟩, txCount := some 99 } };
       Claims.driverMoves s ∧ s.drv.txCount = some 99 ∧ s.drv.seq = ⟨.main, 9, 0⟩) ∧
      (let s := { stateAt ⟨.main, 10, 0⟩ .idle [.driver] with drv := { State.reset.drv with seq := ⟨.main, 10, 0⟩, txCount := some 100 } };
       Claims.driverMoves s ∧ s.drv.txCount = some 100 ∧ s.drv.seq = ⟨.main, 10, 0⟩) ∧
      (100 : Word).toNat % 100 = 0 ∧ (0 : Word).toNat % 100 = 0 ∧ (101 : Word).toNat % 100 ≠ 0 := ⟨⟨⟨rfl, rfl, rfl⟩, rfl, rfl⟩, ⟨⟨rfl, rfl, rfl⟩, rfl, rfl⟩, by decide⟩

/-- Hypotheses of `MainDecidesAtItsBranches`. -/
theorem test_meets_main_decides_at_its_branches :
    (let s := { stateAt ⟨.main, 4, 0⟩ .idle [.driver] with drv := { State.reset.drv with seq := ⟨.main, 4, 0⟩, r := some (.nameTooLong 27) } };
       Claims.driverMoves s ∧ s.drv.seq = ⟨.main, 4, 0⟩ ∧ s.drv.r = some (.nameTooLong 27)) ∧
      (let s := { stateAt ⟨.main, 7, 0⟩ .idle [.driver] with
          drv := { State.reset.drv with seq := ⟨.main, 7, 0⟩, iter := some 0, r := some (.ok 0x20000100 21), bufAddr := some 0x20000100 } };
       Claims.driverMoves s ∧ s.drv.seq = ⟨.main, 7, 0⟩ ∧ s.drv.iter = some 0 ∧ s.drv.r = some (.ok 0x20000100 21) ∧
         s.drv.bufAddr = some 0x20000100) := ⟨⟨⟨rfl, rfl, rfl⟩, rfl, rfl⟩, ⟨rfl, rfl, rfl⟩, rfl, rfl, rfl, rfl⟩

/-- Hypotheses of `FaultsArePrecise`. -/
theorem test_meets_faults_are_precise :
    (let s := foreignState (.op (.bus 0x14000100400000001));
       let m : FaultMark := .unadmitted ⟨.write, 0x40001004, 1⟩ .noRow;
       nextSat (step s) (fun t => decide (t = ({ s with fault := some m }).passTurn)) = true) := by decide

/-- The reset state is a launch state, and so is one with other draws (hypotheses of `LaunchMeetsTheInvariants`,
`BlockProgramNeverFaults` and `LaunchDrawsDoNotShow`). -/
theorem test_meets_launch :
    (Launch State.reset ∧ Launch otherDraws) ∧
      otherDraws.params = State.reset.params ∧ otherDraws.turns = State.reset.turns ∧ otherDraws.clock = State.reset.clock := by
  refine ⟨⟨?_, ?_⟩, rfl, rfl, rfl⟩ <;> constructor <;> decide

/-- Hypotheses of the statements about every step: `Inv` and a next state. -/
theorem test_meets_inv : Inv (stateAt ⟨.main, 1, 0⟩ .enabling [.radio]) ∧
    ∃ t, step (stateAt ⟨.main, 1, 0⟩ .enabling [.radio]) = .next t ∧ t.radio.rs = .ready := by
  refine ⟨?_, _, rfl, rfl⟩; constructor <;> decide

/-- Hypotheses of `EveryStepKeepsConfigInv`: inside `configure`. -/
theorem test_meets_config_inv : ConfigInv (stateAt ⟨.configure, 1, 0⟩ .idle [.driver]) ∧
    nextSat (step (stateAt ⟨.configure, 1, 0⟩ .idle [.driver])) (fun t => decide (t.radio.mode = 3)) = true := by
  refine ⟨?_, by decide⟩; constructor <;> decide

/-- Hypotheses of `ConfigurationNeverChanges`. -/
theorem test_meets_configuration_never_changes :
    (let s := { pduState .idle with drv := { State.reset.drv with configured := true } }
     ConfigInv s ∧ s.drv.configured = true ∧ nextSat (step s) (fun _ => true) = true) := by
  refine ⟨?_, rfl, by decide⟩; constructor <;> decide

/-- Hypotheses of the whole-machine rules: one step of each agent that changes something. -/
theorem test_meets_step_rules :
    nextSat (step (stateAt ⟨.main, 1, 0⟩ (.transmitting ⟨0x20000100, emptyPdu⟩) [.radio]))
      (fun t => decide (t.air.length = 1 ∧ t.radio.eventsEnd = true)) = true ∧
    nextSat (step (foreignState (.op (.bus 0x14000100000000001)))) (fun t => decide (t.radio.rs = .enabling)) = true ∧
    nextSat (step (foreignState (.op (.bus 0x14000800000000001)))) (fun t => decide (t.timer.running = true)) = true := by decide

/-- Hypotheses of `EveryStepKeepsBlockSafe` and `EveryStepKeepsBlockOutput`: the first step of `main`. -/
theorem test_meets_block : BlockSafe { State.reset with turns := [.driver] } ∧ BlockOutput { State.reset with turns := [.driver] } ∧
    nextSat (step { State.reset with turns := [.driver] }) (fun t => decide (t.drv.txCount = some 0)) = true := by
  refine ⟨?_, ?_, by decide⟩ <;> constructor <;> decide

/-- Hypotheses of `EndedRunSentKFrames`: a launch state whose run with `K = 0` ends (V-LOOP-1 with an empty name). -/
theorem test_meets_ended_run : Launch shortRun ∧ shortRun.params.loopBound = some 0 ∧
    nextSat (Claims.runSteps 41 shortRun)
      (fun t => decide (t.drv.seq = Seq.exit ∧ t.radio.rs = .idle ∧ t.timer.running = false ∧ t.fault = none ∧ t.drv.mode = .running)) = true := by
  refine ⟨?_, rfl, by decide⟩; constructor <;> decide

end Sys2Proof.Tests
end

/-!
PROOFS. What a step can do to the radio, the timer, RAM and the air trace, said once: the effect of an operation that raises no
fault, the local computations of the program text, and from both the inversion of the machine's step.
-/

namespace Sys2Proof.Machine

/-! ## Operations -/

/-- What an operation that raises no fault does outside the DRIVER. `TXEN` in `Disabled` holds (R137), the event reads, the
`CALL`s and `HALT` act on the DRIVER only. -/
def effect (i : Instr) (s : State) : State :=
  match i with
  | .trigRadioTxen _ => if s.radio.rs = .idle then { s with radio := { s.radio with rs := .enabling } } else s
  | .trigRadioStart _ =>
    match s.radio.packetptr with
    | some ptr => { s with radio := { s.radio with rs := .transmitting (latchAt s ptr) } }
    | none => s
  | .trigRadioDisable _ => { s with radio := { s.radio with rs := .disabled } }
  | .clrRadioReady _ => { s with radio := { s.radio with eventsReady := false } }
  | .clrRadioEnd _ => { s with radio := { s.radio with eventsEnd := false } }
  | .wrRadioPacketptr a => { s with radio := { s.radio with packetptr := some a } }
  | .wrRadioFrequency d => { s with radio := { s.radio with frequency := d } }
  | .wrRadioTxpower d => { s with radio := { s.radio with txpower := d } }
  | .wrRadioMode d => { s with radio := { s.radio with mode := d } }
  | .wrRadioPcnf0 d => { s with radio := { s.radio with pcnf0 := d } }
  | .wrRadioPcnf1 d => { s with radio := { s.radio with pcnf1 := d } }
  | .wrRadioBase0 d => { s with radio := { s.radio with base0 := d } }
  | .wrRadioPrefix0 d => { s with radio := { s.radio with prefix0 := d } }
  | .wrRadioTxaddress d => { s with radio := { s.radio with txaddress := d } }
  | .wrRadioCrccnf d => { s with radio := { s.radio with crccnf := d } }
  | .wrRadioCrcpoly d => { s with radio := { s.radio with crcpoly := d } }
  | .wrRadioCrcinit d => { s with radio := { s.radio with crcinit := d } }
  | .wrRadioDatawhiteiv d => { s with radio := { s.radio with datawhiteiv := storedWhiteIv d } }
  | .trigTimerStart _ => { s with timer := { s.timer with running := true } }
  | .trigTimerStop _ => { s with timer := { s.timer with running := false } }
  | .trigTimerClear _ => { s with timer := { s.timer with count := 0 } }
  | .clrTimerCompare0 _ => { s with timer := { s.timer with eventsCompare0 := false } }
  | .wrTimerMode d => { s with timer := { s.timer with mode := d } }
  | .wrTimerBitmode d => { s with timer := { s.timer with bitmode := d } }
  | .wrTimerPrescaler d => { s with timer := { s.timer with prescaler := d } }
  | .wrTimerCc0 t => { s with timer := { s.timer with cc := t } }
  | .stb a d => { s with ram := Memory.write s.ram a.toNat (dataByte d) }
  | _ => s

/-- The operation raises a fault, or its data word is admitted and `t` is `s` after its effect and a move of the DRIVER. -/
def FaultsOrActs (i : Instr) (s t : State) : Prop :=
  (∃ m, t = s.raise m) ∨ (admittedData i = true ∧ ∃ d, t = (effect i s).setDrv d)

section
variable {i : Instr} {addr admitted data : Word} {s t : State}

theorem faultsOrActs_of_configWrite {stored : Radio} (hd : admittedData i = decide (data = admitted))
    (he : effect i s = { s with radio := stored }) (h : configWrite addr admitted data stored s = .next t) :
    FaultsOrActs i s t := by
  rcases configWrite_cases _ _ _ _ _ _ h with hm | ⟨_, hw, rfl⟩
  · exact .inl hm
  · exact .inr ⟨by simp [hd, hw], _, by rw [he]; rfl⟩

theorem faultsOrActs_of_timerConfigWrite {stored : Timer} (hd : admittedData i = decide (data = admitted))
    (he : effect i s = { s with timer := stored }) (h : timerConfigWrite addr admitted data stored s = .next t) :
    FaultsOrActs i s t := by
  rcases timerConfigWrite_cases _ _ _ _ _ _ h with hm | ⟨_, hw, rfl⟩
  · exact .inl hm
  · exact .inr ⟨by simp [hd, hw], _, by rw [he]; rfl⟩

theorem faultsOrActs_of_timerTask {started : Timer} (hd : admittedData i = decide (data = taskWord))
    (he : effect i s = { s with timer := started }) (h : timerTask addr data started s = .next t) :
    FaultsOrActs i s t := by
  rcases timerTask_cases _ _ _ _ _ h with hm | ⟨hw, rfl⟩
  · exact .inl hm
  · exact .inr ⟨by simp [hd, hw], _, by rw [he]; rfl⟩

theorem faultsOrActs_of_clearEvent (hd : admittedData i = decide (data = clearWord))
    (h : clearEvent addr data (effect i s) s = .next t) : FaultsOrActs i s t := by
  rcases clearEvent_cases _ _ _ _ _ h with hm | ⟨hw, rfl⟩
  · exact .inl hm
  · exact .inr ⟨by simp [hd, hw], _, rfl⟩

/-- An operation without a check changes the state by its effect and moves the DRIVER. -/
theorem faultsOrActs_of_next {d : Driver} (hd : admittedData i = true)
    (h : (.next ((effect i s).setDrv d) : Result) = .next t) : FaultsOrActs i s t := by
  cases h; exact .inr ⟨hd, d, rfl⟩

/-- What every operation can do. -/
theorem exec_faultsOrActs (h : exec i s = .next t) : FaultsOrActs i s t := by
  cases i with
  | trigRadioTxen data =>
    rcases execTrigRadioTxen_cases _ _ _ h with hm | ⟨hrs, hw, rfl⟩ | ⟨hrs, hw, rfl⟩
    · exact .inl hm
    · exact .inr ⟨by simp [admittedData, hw], t.drv, by simp [effect, hrs, State.setDrv]⟩
    · exact .inr ⟨by simp [admittedData, hw], _, by simp only [effect, hrs, if_true]; rfl⟩
  | trigRadioStart data =>
    rcases execTrigRadioStart_cases _ _ _ h with hm | ⟨ptr, _, hw, hp, _, rfl⟩
    · exact .inl hm
    · exact .inr ⟨by simp [admittedData, hw], _, by simp only [effect, hp]; rfl⟩
  | trigRadioDisable data =>
    rcases execTrigRadioDisable_cases _ _ _ h with hm | ⟨_, hw, rfl⟩
    · exact .inl hm
    · exact .inr ⟨by simp [admittedData, hw], _, rfl⟩
  | stb addr data =>
    rcases execStb_cases _ _ _ _ h with hm | ⟨hb, _, _, rfl⟩
    · exact .inl hm
    · exact .inr ⟨by simp [admittedData, hb], _, rfl⟩
  | clrRadioReady _ | clrRadioEnd _ | clrTimerCompare0 _ => exact faultsOrActs_of_clearEvent rfl h
  | wrRadioFrequency _ | wrRadioTxpower _ | wrRadioMode _ | wrRadioPcnf0 _ | wrRadioPcnf1 _ | wrRadioBase0 _
  | wrRadioPrefix0 _ | wrRadioTxaddress _ | wrRadioCrccnf _ | wrRadioCrcpoly _ | wrRadioCrcinit _
  | wrRadioDatawhiteiv _ => exact faultsOrActs_of_configWrite rfl rfl h
  | trigTimerStart _ | trigTimerStop _ | trigTimerClear _ => exact faultsOrActs_of_timerTask rfl rfl h
  | wrTimerMode _ | wrTimerBitmode _ | wrTimerPrescaler _ => exact faultsOrActs_of_timerConfigWrite rfl rfl h
  | rdRadioReady | rdRadioEnd | rdTimerCompare0 | wrRadioPacketptr _ | wrTimerCc0 _ | callMain | callConfigure
  | callTransmit _ | callEncode _ | callTimerInit | callDelayMs _ | halt => exact faultsOrActs_of_next rfl h

end

/-! ## What an operation's effect changes and leaves unchanged -/

/-- An operation acts outside the DRIVER on the radio, the timer and RAM only. -/
theorem effect_frame (i : Instr) (s : State) : ∃ r tm m, effect i s = { s with radio := r, timer := tm, ram := m } := by
  unfold effect
  repeat' split
  all_goals exact ⟨_, _, _, rfl⟩

@[simp] theorem effect_air (i : Instr) (s : State) : (effect i s).air = s.air := by
  obtain ⟨_, _, _, h⟩ := effect_frame i s; rw [h]

@[simp] theorem effect_params (i : Instr) (s : State) : (effect i s).params = s.params := by
  obtain ⟨_, _, _, h⟩ := effect_frame i s; rw [h]

@[simp] theorem effect_text (i : Instr) (s : State) : (effect i s).text = s.text := by
  obtain ⟨_, _, _, h⟩ := effect_frame i s; rw [h]

/-- An operation leaves `EVENTS_READY` alone or clears it (R144). -/
theorem effect_eventsReady_cases (i : Instr) (s : State) :
    (effect i s).radio.eventsReady = s.radio.eventsReady ∨
      ∃ d, i = .clrRadioReady d ∧ (effect i s).radio.eventsReady = false := by
  cases i with
  | clrRadioReady d => exact .inr ⟨d, rfl, rfl⟩
  | trigRadioTxen _ | trigRadioStart _ => exact .inl (by simp only [effect]; split <;> rfl)
  | _ => exact .inl rfl

/-- An operation leaves `EVENTS_END` alone or clears it (R146). -/
theorem effect_eventsEnd_cases (i : Instr) (s : State) :
    (effect i s).radio.eventsEnd = s.radio.eventsEnd ∨
      ∃ d, i = .clrRadioEnd d ∧ (effect i s).radio.eventsEnd = false := by
  cases i with
  | clrRadioEnd d => exact .inr ⟨d, rfl, rfl⟩
  | trigRadioTxen _ | trigRadioStart _ => exact .inl (by simp only [effect]; split <;> rfl)
  | _ => exact .inl rfl

/-- An operation leaves `EVENTS_COMPARE0` alone or clears it (R213). -/
theorem effect_eventsCompare0_cases (i : Instr) (s : State) :
    (effect i s).timer.eventsCompare0 = s.timer.eventsCompare0 ∨
      ∃ d, i = .clrTimerCompare0 d ∧ (effect i s).timer.eventsCompare0 = false := by
  cases i with
  | clrTimerCompare0 d => exact .inr ⟨d, rfl, rfl⟩
  | trigRadioTxen _ | trigRadioStart _ => exact .inl (by simp only [effect]; split <;> rfl)
  | _ => exact .inl rfl

/-- An operation leaves the counter alone or sets it to 0 (R208). -/
theorem effect_count_cases (i : Instr) (s : State) :
    (effect i s).timer.count = s.timer.count ∨ ∃ d, i = .trigTimerClear d ∧ (effect i s).timer.count = 0 := by
  cases i with
  | trigTimerClear d => exact .inr ⟨d, rfl, rfl⟩
  | trigRadioTxen _ | trigRadioStart _ => exact .inl (by simp only [effect]; split <;> rfl)
  | _ => exact .inl rfl

/-- An operation leaves the running flag alone, sets it, or clears it (R209, R210). -/
theorem effect_running_cases (i : Instr) (s : State) :
    (effect i s).timer.running = s.timer.running ∨
      (∃ d, i = .trigTimerStart d ∧ (effect i s).timer.running = true) ∨
      ∃ d, i = .trigTimerStop d ∧ (effect i s).timer.running = false := by
  cases i with
  | trigTimerStart d => exact .inr (.inl ⟨d, rfl, rfl⟩)
  | trigTimerStop d => exact .inr (.inr ⟨d, rfl, rfl⟩)
  | trigRadioTxen _ | trigRadioStart _ => exact .inl (by simp only [effect]; split <;> rfl)
  | _ => exact .inl rfl

/-! ## Local computations and polling reads -/

/-- `t` differs from `s` at most in the DRIVER, the log and the fault mark. -/
def LocalTo (s t : State) : Prop := ∃ d l f, t = { s with drv := d, log := l, fault := f }

theorem LocalTo.refl (s : State) : LocalTo s s := ⟨_, _, _, rfl⟩

theorem LocalTo.raise {s t : State} (h : LocalTo s t) (m : FaultMark) : LocalTo s (t.raise m) := by
  obtain ⟨_, _, _, rfl⟩ := h
  unfold State.raise
  split <;> exact ⟨_, _, _, rfl⟩

theorem LocalTo.setDrv {s t : State} (h : LocalTo s t) (d : Driver) : LocalTo s (t.setDrv d) := by
  obtain ⟨_, _, _, rfl⟩ := h
  exact ⟨_, _, _, rfl⟩

theorem LocalTo.setSeq {s t : State} (h : LocalTo s t) (q : Seq) : LocalTo s (t.setSeq q) := h.setDrv _

theorem LocalTo.advance {s t : State} (h : LocalTo s t) : LocalTo s t.advance := h.setDrv _

theorem LocalTo.ret {s t : State} (h : LocalTo s t) : LocalTo s t.ret := by
  unfold State.ret
  split
  · exact h.setDrv _
  · exact h.setSeq _

theorem LocalTo.emitReport {s t : State} (h : LocalTo s t) (c : Word) : LocalTo s (t.emitReport c) := by
  obtain ⟨_, _, _, rfl⟩ := h
  unfold State.emitReport
  split <;> exact ⟨_, _, _, rfl⟩

/-- A line keeps off the hardware by itself: its computation is local, and what it polls is the read of an event. -/
def Line.Contained (s : State) : Line → Prop
  | .compute t => LocalTo s t
  | .poll c => ∃ e : Event, c = encode e.read
  | .op _ => True
  | .exit => True

section
variable {s t : State}

@[simp] theorem Line.exit_contained : Line.exit.Contained s := trivial
@[simp] theorem Line.op_contained (c : Code) : (Line.op c).Contained s := trivial
@[simp] theorem Line.issue_contained (i : Instr) : (Line.issue i).Contained s := trivial
@[simp] theorem Line.await_contained (e : Event) : (Line.await e).Contained s := ⟨e, rfl⟩
@[simp] theorem Line.compute_contained : (Line.compute t).Contained s ↔ LocalTo s t := Iff.rfl
@[simp] theorem Line.raise_contained (m : FaultMark) : (Line.raise m s).Contained s := (LocalTo.refl s).raise m

end

theorem mainLine_contained (s : State) (line : Nat) : (mainLine s line).Contained s := by
  have h := LocalTo.refl s
  unfold mainLine
  repeat' split
  all_goals simp [h.advance, (h.setDrv _).advance, h.setSeq, (h.setDrv _).setSeq, (h.emitReport _).advance]

theorem configureLine_contained (s : State) (line : Nat) : (configureLine s line).Contained s := by
  have h := LocalTo.refl s
  unfold configureLine
  repeat' split
  all_goals simp [h.advance, (h.setDrv _).ret]

theorem transmitLine_contained (a : Word) (s : State) (line : Nat) : (transmitLine a s line).Contained s := by
  have h := LocalTo.refl s
  unfold transmitLine
  repeat' split
  all_goals simp [h.advance, h.ret]

theorem encodeLine_contained (name : List Byte) (s : State) (line sub : Nat) :
    (encodeLine name s line sub).Contained s := by
  have h := LocalTo.refl s
  unfold encodeLine
  repeat' split
  all_goals simp [h.advance, (h.setDrv _).ret]

theorem timerInitLine_contained (s : State) (line : Nat) : (timerInitLine s line).Contained s := by
  have h := LocalTo.refl s
  unfold timerInitLine
  repeat' split
  all_goals simp [(h.setDrv _).ret]

theorem delayMsLine_contained (n : Word) (s : State) (line : Nat) : (delayMsLine n s line).Contained s := by
  have h := LocalTo.refl s
  unfold delayMsLine
  repeat' split
  all_goals simp [h.advance, (h.setDrv _).advance, h.ret]

theorem foreignLine_contained (s : State) (line : Nat) : (foreignLine s line).Contained s := by
  unfold foreignLine
  repeat' split
  all_goals simp

/-- Every line of every program keeps off the hardware by itself. -/
theorem lineAt_contained (s : State) : (lineAt s).Contained s := by
  unfold lineAt
  split
  · exact mainLine_contained s _
  · exact configureLine_contained s _
  · exact transmitLine_contained _ s _
  · exact encodeLine_contained _ s _ _
  · exact timerInitLine_contained s _
  · exact delayMsLine_contained _ s _
  · split <;> simp
  · exact foreignLine_contained s _

/-- The read of an event acts on the DRIVER only (R83, R143). -/
theorem runCode_read_local (e : Event) {s t : State} (h : runCode (encode e.read) s = .next t) : LocalTo s t := by
  have hd : decode (encode e.read) = some e.read := by cases e <;> rfl
  simp only [runCode, hd] at h
  cases e <;> cases h <;> exact ((LocalTo.refl s).setDrv _).advance

/-! ## The machine's step -/

/-- A DRIVER step stays local, or takes the effect of the operation its line issues. -/
theorem driverStep_effects {s t : State} (h : driverStep s = .next t) :
    LocalTo s t ∨ ∃ c i d, lineAt s = .op c ∧ decode c = some i ∧ admittedData i = true ∧ t = (effect i s).setDrv d := by
  have hc := lineAt_contained s
  rcases driverStep_cases _ _ h with ⟨_, rfl⟩ | hl | ⟨c, hl, hr⟩ | ⟨c, u, hl, hr, hu⟩
  · exact .inl (.refl t)
  · rw [hl] at hc
    exact .inl hc
  · rcases runCode_cases c s with ⟨_, hx⟩ | ⟨i, hi, hx⟩
    · cases hr.symm.trans hx
      exact .inl ((LocalTo.refl s).raise _)
    · rcases exec_faultsOrActs (hx.symm.trans hr) with ⟨m, rfl⟩ | ⟨ha, d, rfl⟩
      · exact .inl ((LocalTo.refl s).raise m)
      · exact .inr ⟨c, i, d, hl, hi, ha, rfl⟩
  · rw [hl] at hc
    obtain ⟨e, rfl⟩ := hc
    have hloc := runCode_read_local e hr
    rcases hu with rfl | rfl
    · exact .inl hloc
    · exact .inl (hloc.setSeq _)

/-- A RADIO step is one of its three (R138, R140, R142). -/
theorem radioStep_cases {s : State} (he : radioEnabled s = true) :
    (s.radio.rs = .enabling ∧ radioStep s = rampUpDone s) ∨
      (∃ l, s.radio.rs = .transmitting l ∧ radioStep s = txDone l s) ∨
      (s.radio.rs = .disabled ∧ radioStep s = disableDone s) := by
  cases hrs : s.radio.rs <;> simp_all [radioEnabled, radioStep]

/-- What a step can do, up to the passing of the turn. -/
inductive StepEffect (s : State) : State → Prop
  /-- The DRIVER's local computation, its polling read or its fault, and the turn of an agent without a step. -/
  | localMove {u : State} (h : LocalTo s u) : StepEffect s u
  /-- `RampUpDone` (R138). -/
  | rampUp (turn : s.nextAgent = .radio) (hrs : s.radio.rs = .enabling) : StepEffect s (rampUpDone s)
  /-- `TxDone` (R140). -/
  | sent {l : Latch} (turn : s.nextAgent = .radio) (hrs : s.radio.rs = .transmitting l) : StepEffect s (txDone l s)
  /-- `DisableDone` (R142). -/
  | idled (turn : s.nextAgent = .radio) (hrs : s.radio.rs = .disabled) : StepEffect s (disableDone s)
  /-- `Tick` (R212). -/
  | ticked (turn : s.nextAgent = .timer) (running : s.timer.running = true) : StepEffect s (tick s)
  /-- The admitted operation at the DRIVER's line. -/
  | operation {i : Instr} {d : Driver} (issued : Claims.issues s i) (admitted : admittedData i = true) :
    StepEffect s ((effect i s).setDrv d)

/-- Every step has one of these effects, and then the turn passes. -/
theorem step_effect {s t : State} (h : step s = .next t) : ∃ u, StepEffect s u ∧ t = u.passTurn := by
  obtain ⟨-, ⟨ha, -, u, hu, rfl⟩ | ⟨ha, he, rfl⟩ | ⟨ha, hr, rfl⟩ | rfl⟩ := step_cases s t h
  · refine ⟨u, ?_, rfl⟩
    rcases driverStep_effects hu with hloc | ⟨c, i, d, hl, hi, hd, rfl⟩
    · exact .localMove hloc
    · exact .operation ⟨ha, c, hl, hi⟩ hd
  · refine ⟨_, ?_, rfl⟩
    rcases radioStep_cases he with ⟨hrs, hx⟩ | ⟨l, hrs, hx⟩ | ⟨hrs, hx⟩ <;> rw [hx]
    · exact .rampUp ha hrs
    · exact .sent ha hrs
    · exact .idled ha hrs
  · exact ⟨_, .ticked ha hr, rfl⟩
  · exact ⟨s, .localMove (.refl s), rfl⟩

/-! ## What changes by a step -/

/-- Settles O52: of all effects only `TxDone` touches the air trace. -/
theorem airGrowsOnlyByTxDone : Obligations.AirGrowsOnlyByTxDone := by
  intro s t h
  obtain ⟨u, hu, rfl⟩ := step_effect h
  cases hu with
  | localMove hloc => obtain ⟨_, _, _, rfl⟩ := hloc; exact .inl rfl
  | rampUp _ _ | idled _ _ | ticked _ _ => exact .inl rfl
  | sent turn hrs => exact .inr ⟨turn, _, hrs, rfl, rfl⟩
  | @operation i _ _ _ => exact .inl (effect_air i s)

/-- Settles O55: no effect touches the program text or the parameters. -/
theorem programAndParametersNeverChange : Obligations.ProgramAndParametersNeverChange := by
  intro s t h
  obtain ⟨u, hu, rfl⟩ := step_effect h
  cases hu with
  | localMove hloc => obtain ⟨_, _, _, rfl⟩ := hloc; exact ⟨rfl, rfl⟩
  | rampUp _ _ | sent _ _ | idled _ _ | ticked _ _ => exact ⟨rfl, rfl⟩
  | @operation i _ _ _ => exact ⟨effect_text i s, effect_params i s⟩

/-- `EVENTS_READY` is set by `RampUpDone` and cleared by its write of 0. -/
theorem StepEffect.eventsReady {s u : State} (h : StepEffect s u) (hne : u.radio.eventsReady ≠ s.radio.eventsReady) :
    (u.radio.eventsReady = true ∧ s.nextAgent = .radio ∧ s.radio.rs = .enabling) ∨
      (u.radio.eventsReady = false ∧ Claims.issues s (.clrRadioReady 0)) := by
  cases h with
  | localMove hloc => obtain ⟨_, _, _, rfl⟩ := hloc; exact absurd rfl hne
  | rampUp turn hrs => exact .inl ⟨rfl, turn, hrs⟩
  | sent _ _ | idled _ _ | ticked _ _ => exact absurd rfl hne
  | @operation i _ issued admitted =>
    rcases effect_eventsReady_cases i s with hsame | ⟨d, rfl, hclear⟩
    · exact absurd hsame hne
    · obtain rfl : d = clearWord := of_decide_eq_true admitted
      exact .inr ⟨hclear, issued⟩

/-- `EVENTS_END` is set by `TxDone` and cleared by its write of 0. -/
theorem StepEffect.eventsEnd {s u : State} (h : StepEffect s u) (hne : u.radio.eventsEnd ≠ s.radio.eventsEnd) :
    (u.radio.eventsEnd = true ∧ s.nextAgent = .radio ∧ ∃ l, s.radio.rs = .transmitting l) ∨
      (u.radio.eventsEnd = false ∧ Claims.issues s (.clrRadioEnd 0)) := by
  cases h with
  | localMove hloc => obtain ⟨_, _, _, rfl⟩ := hloc; exact absurd rfl hne
  | sent turn hrs => exact .inl ⟨rfl, turn, _, hrs⟩
  | rampUp _ _ | idled _ _ | ticked _ _ => exact absurd rfl hne
  | @operation i _ issued admitted =>
    rcases effect_eventsEnd_cases i s with hsame | ⟨d, rfl, hclear⟩
    · exact absurd hsame hne
    · obtain rfl : d = clearWord := of_decide_eq_true admitted
      exact .inr ⟨hclear, issued⟩

/-- A tick that changes `EVENTS_COMPARE0` sets it and reaches the target (R212). -/
theorem tick_eventsCompare0_changed {s : State} (hne : (tick s).timer.eventsCompare0 ≠ s.timer.eventsCompare0) :
    (tick s).timer.eventsCompare0 = true ∧ s.timer.tickReaches = true := by
  cases hf : s.timer.eventsCompare0 <;> simp_all [tick]

/-- `EVENTS_COMPARE0` is set by a tick that reaches the target and cleared by its write of 0. -/
theorem StepEffect.eventsCompare0 {s u : State} (h : StepEffect s u)
    (hne : u.timer.eventsCompare0 ≠ s.timer.eventsCompare0) :
    (u.timer.eventsCompare0 = true ∧ s.nextAgent = .timer ∧ s.timer.running = true ∧ s.timer.tickReaches = true) ∨
      (u.timer.eventsCompare0 = false ∧ Claims.issues s (.clrTimerCompare0 0)) := by
  cases h with
  | localMove hloc => obtain ⟨_, _, _, rfl⟩ := hloc; exact absurd rfl hne
  | rampUp _ _ | sent _ _ | idled _ _ => exact absurd rfl hne
  | ticked turn running =>
    obtain ⟨hset, hreach⟩ := tick_eventsCompare0_changed hne
    exact .inl ⟨hset, turn, running, hreach⟩
  | @operation i _ issued admitted =>
    rcases effect_eventsCompare0_cases i s with hsame | ⟨d, rfl, hclear⟩
    · exact absurd hsame hne
    · obtain rfl : d = clearWord := of_decide_eq_true admitted
      exact .inr ⟨hclear, issued⟩

/-- Settles O53: flag by flag, over the effects of a step. -/
theorem flagsChangeOnlyByTheirRules : Obligations.FlagsChangeOnlyByTheirRules := by
  intro s t h
  obtain ⟨u, hu, rfl⟩ := step_effect h
  exact ⟨hu.eventsReady, hu.eventsEnd, hu.eventsCompare0⟩

/-- The counter moves by a tick or is cleared. -/
theorem StepEffect.count {s u : State} (h : StepEffect s u) (hne : u.timer.count ≠ s.timer.count) :
    (s.nextAgent = .timer ∧ s.timer.running = true ∧ u.timer.count = s.timer.nextCount) ∨
      (u.timer.count = 0 ∧ Claims.issues s (.trigTimerClear 1)) := by
  cases h with
  | localMove hloc => obtain ⟨_, _, _, rfl⟩ := hloc; exact absurd rfl hne
  | rampUp _ _ | sent _ _ | idled _ _ => exact absurd rfl hne
  | ticked turn running => exact .inl ⟨turn, running, rfl⟩
  | @operation i _ issued admitted =>
    rcases effect_count_cases i s with hsame | ⟨d, rfl, hclear⟩
    · exact absurd hsame hne
    · obtain rfl : d = taskWord := of_decide_eq_true admitted
      exact .inr ⟨hclear, issued⟩

/-- The running flag moves by START and STOP. -/
theorem StepEffect.running {s u : State} (h : StepEffect s u) (hne : u.timer.running ≠ s.timer.running) :
    Claims.issues s (if u.timer.running then .trigTimerStart 1 else .trigTimerStop 1) := by
  cases h with
  | localMove hloc => obtain ⟨_, _, _, rfl⟩ := hloc; exact absurd rfl hne
  | rampUp _ _ | sent _ _ | idled _ _ | ticked _ _ => exact absurd rfl hne
  | @operation i _ issued admitted =>
    rcases effect_running_cases i s with hsame | ⟨d, rfl, hrun⟩ | ⟨d, rfl, hrun⟩
    · exact absurd hsame hne
    · obtain rfl : d = taskWord := of_decide_eq_true admitted
      rw [State.setDrv_timer, hrun]
      exact issued
    · obtain rfl : d = taskWord := of_decide_eq_true admitted
      rw [State.setDrv_timer, hrun]
      exact issued

/-- Settles O54: the counter and the running flag, over the effects of a step. -/
theorem timerChangesOnlyByItsRules : Obligations.TimerChangesOnlyByItsRules := by
  intro s t h
  obtain ⟨u, hu, rfl⟩ := step_effect h
  exact ⟨hu.count, hu.running⟩

/-! ## The DRIVER's step and the sequence pointer -/

/-- Settles O6: a running DRIVER at an operation line is enabled, and its step is the operation's. -/
theorem stepRunsDecodedOperation : Obligations.StepRunsDecodedOperation := by
  rintro s c i ⟨hf, ha, hm⟩ hl hd
  have he : driverEnabled s = true := by simp [driverEnabled, hm, hl]
  have hx : driverStep s = exec i s := by simp only [driverStep, hl, runCode, hd]
  rw [step_driver hf ha he, hx]

/-- Settles O40: `advance` by `Seq.next_of_not_encode`, each `CALL` by its entry. -/
theorem sequencePointerMoves : Obligations.SequencePointerMoves := by
  intro s
  refine ⟨fun hproc => ?_, rfl, rfl, fun _ => rfl, fun _ => rfl, rfl, fun _ => rfl⟩
  simp only [State.advance, State.setSeq, Seq.next_of_not_encode _ hproc]

/-! ## When the machine stops -/

section
variable {addr admitted data : Word} {s : State}

theorem configWrite_hasNext {stored : Radio} : ∃ t, configWrite addr admitted data stored s = .next t := by
  unfold configWrite
  repeat' split
  all_goals exact ⟨_, rfl⟩

theorem timerConfigWrite_hasNext {stored : Timer} : ∃ t, timerConfigWrite addr admitted data stored s = .next t := by
  unfold timerConfigWrite
  repeat' split
  all_goals exact ⟨_, rfl⟩

theorem timerTask_hasNext {started : Timer} : ∃ t, timerTask addr data started s = .next t := by
  unfold timerTask
  split <;> exact ⟨_, rfl⟩

theorem clearEvent_hasNext {cleared : State} : ∃ t, clearEvent addr data cleared s = .next t := by
  unfold clearEvent
  split <;> exact ⟨_, rfl⟩

theorem execTrigRadioTxen_hasNext : ∃ t, execTrigRadioTxen data s = .next t := by
  unfold execTrigRadioTxen
  repeat' split
  all_goals exact ⟨_, rfl⟩

theorem execTrigRadioStart_hasNext : ∃ t, execTrigRadioStart data s = .next t := by
  unfold execTrigRadioStart
  repeat' split
  all_goals exact ⟨_, rfl⟩

theorem execTrigRadioDisable_hasNext : ∃ t, execTrigRadioDisable data s = .next t := by
  unfold execTrigRadioDisable
  repeat' split
  all_goals exact ⟨_, rfl⟩

theorem execStb_hasNext : ∃ t, execStb addr data s = .next t := by
  unfold execStb
  repeat' split
  all_goals exact ⟨_, rfl⟩

end

/-- Every operation answers a next state: a fault of the spec is one with its mark. -/
theorem exec_hasNext (i : Instr) (s : State) : ∃ t, exec i s = .next t := by
  cases i with
  | trigRadioTxen _ => exact execTrigRadioTxen_hasNext
  | trigRadioStart _ => exact execTrigRadioStart_hasNext
  | trigRadioDisable _ => exact execTrigRadioDisable_hasNext
  | stb _ _ => exact execStb_hasNext
  | clrRadioReady _ | clrRadioEnd _ | clrTimerCompare0 _ => exact clearEvent_hasNext
  | wrRadioFrequency _ | wrRadioTxpower _ | wrRadioMode _ | wrRadioPcnf0 _ | wrRadioPcnf1 _ | wrRadioBase0 _
  | wrRadioPrefix0 _ | wrRadioTxaddress _ | wrRadioCrccnf _ | wrRadioCrcpoly _ | wrRadioCrcinit _
  | wrRadioDatawhiteiv _ => exact configWrite_hasNext
  | trigTimerStart _ | trigTimerStop _ | trigTimerClear _ => exact timerTask_hasNext
  | wrTimerMode _ | wrTimerBitmode _ | wrTimerPrescaler _ => exact timerConfigWrite_hasNext
  | rdRadioReady | rdRadioEnd | rdTimerCompare0 | wrRadioPacketptr _ | wrTimerCc0 _ | callMain | callConfigure
  | callTransmit _ | callEncode _ | callTimerInit | callDelayMs _ | halt => exact ⟨_, rfl⟩

theorem runCode_hasNext (c : Code) (s : State) : ∃ t, runCode c s = .next t := by
  rcases runCode_cases c s with ⟨_, hx⟩ | ⟨i, _, hx⟩
  · exact ⟨_, hx⟩
  · rw [hx]; exact exec_hasNext i s

theorem driverStep_hasNext (s : State) : ∃ t, driverStep s = .next t := by
  unfold driverStep
  split
  · exact ⟨_, rfl⟩
  · exact runCode_hasNext _ s
  · obtain ⟨u, hu⟩ := runCode_hasNext _ s
    rw [hu, stayUnlessSet]
    split <;> exact ⟨_, rfl⟩
  · exact ⟨_, rfl⟩

/-- A halted DRIVER beside a radio and a timer without a step is fatal, whoever's turn it is. -/
theorem step_fatalHalt {s : State} (hf : s.fault = none) (hm : s.drv.mode = .halted) (hr : radioEnabled s = false)
    (ht : s.timer.running = false) : step s = .fault .fatalHalt := by
  have hd : driverEnabled s = false := by simp [driverEnabled, hm]
  have hidle : idleTurn s = .fault .fatalHalt := by simp only [idleTurn, hm, hr, ht, and_self, if_true]
  simp only [step, hf]
  cases s.nextAgent <;> simp [agentTurn, hd, hr, ht, hidle]

/-- An unfaulted state in which the DRIVER runs or another agent has a step has a next state. -/
theorem step_hasNext {s : State} (hf : s.fault = none)
    (hlive : s.drv.mode = .running ∨ radioEnabled s = true ∨ s.timer.running = true) : ∃ t, step s = .next t := by
  have hidle : idleTurn s = .next s.passTurn := by
    refine if_neg ?_
    rintro ⟨hm, hr, ht⟩
    simp [hm, hr, ht] at hlive
  simp only [step, hf]
  cases s.nextAgent <;> simp only [agentTurn] <;> split
  case driver.isTrue =>
    obtain ⟨u, hu⟩ := driverStep_hasNext s
    exact ⟨_, congrArg passTurnOf hu⟩
  case radio.isTrue | timer.isTrue => exact ⟨_, rfl⟩
  case driver.isFalse | radio.isFalse | timer.isFalse => exact ⟨_, hidle⟩

/-- Settles O42: the fault mark, the fatal halt, and every other state. -/
theorem machineStopsExactly : Obligations.MachineStopsExactly := by
  intro s
  refine ⟨fun m hm => ?_, fun hf hm hr ht => ⟨step_fatalHalt hf hm hr ht, rfl⟩, step_hasNext⟩
  simp only [step, hm]

end Sys2Proof.Machine

namespace Sys2Proof.Safety

open Sys2Proof.Machine

/-! ## Launch -/

/-- The reset state holds the values of R57 and meets the premises of R272. -/
theorem reset_launch : Launch State.reset where
  radioIdle := rfl
  packetptrUnwritten := rfl
  timerStopped := rfl
  noShorts := rfl
  noFault := rfl
  cleanDriver := rfl
  airEmpty := rfl
  logEmpty := rfl
  placed := by decide
  zeroed := by decide
  canonical := ⟨rfl, rfl⟩
  hardwired := by decide
  ownProgram := rfl

section
variable {s : State}

theorem Launch.inv (h : Launch s) : Inv s where
  ramCanonical := h.canonical.left
  ramInWindow := h.canonical.right
  noShorts := h.noShorts
  hardwired := h.hardwired
  latch := by simp [latchSound, h.radioIdle]

theorem Launch.configInv (h : Launch s) : ConfigInv s where
  configured := by simp [h.cleanDriver, Driver.reset]
  progress := by simp [h.cleanDriver, Driver.reset]
  callers := by simp [h.cleanDriver, Driver.reset]

theorem Launch.blockSafe (h : Launch s) : BlockSafe s where
  noFault := h.noFault
  placed := h.placed
  counted := by simp [h.cleanDriver, Driver.reset]
  position := by
    simp [blockPosition, mainPosition, unconfigured, h.cleanDriver, Driver.reset, h.radioIdle, h.timerStopped]

theorem Launch.blockOutput (h : Launch s) : BlockOutput s where
  canonical := h.canonical.left
  buffer := by simp [bufferProgress, h.cleanDriver, Driver.reset]
  latch := by simp [latchIsPdu, h.radioIdle]
  air := by simp [h.airEmpty, framesSent, h.cleanDriver, Driver.reset]
  counter := by simp [h.cleanDriver, Driver.reset]
  reports := by simp [h.logEmpty]

end

/-- Settles O47: the reset values field by field, and each invariant from the launch premises. -/
theorem launchMeetsTheInvariants : Obligations.LaunchMeetsTheInvariants :=
  ⟨reset_launch, fun _ h => ⟨h.inv, h.configInv, h.blockSafe, h.blockOutput⟩⟩

end Sys2Proof.Safety

/-!
PROOFS. The machine's invariant `Inv` is kept: by what acts on the DRIVER, the log and the fault mark only, by every operation (the
store and `START` by their own checks), and by the steps of the RADIO and the TIMER.
-/

namespace Sys2Proof.Machine

/-- A DRIVER step stays local, or is the execution of the operation its line issues. -/
theorem driverStep_local_or_exec {s t : State} (h : driverStep s = .next t) :
    LocalTo s t ∨ ∃ c i, lineAt s = .op c ∧ decode c = some i ∧ exec i s = .next t := by
  rcases driverStep_effects h with hloc | ⟨c, i, _, hl, hi, _, _⟩
  · exact .inl hloc
  · exact .inr ⟨c, i, hl, hi, by simpa only [driverStep, hl, runCode, hi] using h⟩

/-- Whatever is written, `DATAWHITEIV` holds its hardwired bit (R35, R127). -/
theorem storedWhiteIv_hardwired (data : Word) : (storedWhiteIv data).getLsbD 6 = true := by
  simp [storedWhiteIv]

/-- The length byte bounds the payload (R139). -/
theorem payloadLength_lt (s : State) (ptr : Word) : payloadLength s ptr < 256 :=
  lt_of_le_of_lt (min_le_left _ _) (BitVec.isLt _)

end Sys2Proof.Machine

namespace Sys2Proof.Safety

open Sys2Proof.Machine

section
variable {s t : State}

theorem latchSound_transmitting_iff (l : Latch) : latchSound (.transmitting l) = true ↔
    l.ptr.toNat % 4 = 0 ∧ Config.ramLo ≤ l.ptr.toNat ∧ 2 ≤ l.bytes.length ∧ l.bytes.length ≤ 257 ∧
      l.ptr.toNat + l.bytes.length ≤ Config.ramHi + 1 := by
  simp only [latchSound, Bool.and_eq_true, decide_eq_true_eq, and_assoc]

/-- The packet `START` admits is one the invariant allows (R81, R139). -/
theorem latchSound_latchAt {ptr : Word} (h : packetInRam s ptr = true) :
    latchSound (.transmitting (latchAt s ptr)) = true := by
  have hlen := payloadLength_lt s ptr
  simp only [packetInRam, Bool.and_eq_true, decide_eq_true_eq] at h
  simp only [latchSound_transmitting_iff, latchAt, Memory.readBytes_length]
  omega

/-- The invariant does not speak of the DRIVER, the log or the fault mark. -/
theorem Inv.of_localTo (h : Inv s) (hst : LocalTo s t) : Inv t := by
  obtain ⟨_, _, _, rfl⟩ := hst
  exact { h with }

theorem Inv.of_raise (h : Inv s) (m : FaultMark) : Inv (s.raise m) := h.of_localTo ((LocalTo.refl s).raise m)

/-- Every operation keeps the invariant. Its checks matter twice: a store stays in the window, and what `START` latches lies in RAM. -/
theorem Inv.of_exec {i : Instr} (h : Inv s) (hx : exec i s = .next t) : Inv t := by
  cases i with
  | stb addr data =>
    rcases execStb_cases _ _ _ _ hx with ⟨m, rfl⟩ | ⟨_, hin, _, rfl⟩
    · exact h.of_raise m
    · exact { h with
        ramCanonical := Memory.write_wf _ _ _ h.ramCanonical
        ramInWindow := Memory.write_inWindow _ _ _ hin h.ramInWindow }
  | trigRadioStart data =>
    rcases execTrigRadioStart_cases _ _ _ hx with ⟨m, rfl⟩ | ⟨ptr, _, _, _, hin, rfl⟩
    · exact h.of_raise m
    · exact { h with latch := latchSound_latchAt hin }
  | trigRadioTxen data =>
    rcases execTrigRadioTxen_cases _ _ _ hx with ⟨m, rfl⟩ | ⟨_, _, rfl⟩ | ⟨_, _, rfl⟩
    · exact h.of_raise m
    · exact h
    · exact { h with latch := rfl }
  | trigRadioDisable data =>
    rcases exec_faultsOrActs hx with ⟨m, rfl⟩ | ⟨_, _, rfl⟩
    · exact h.of_raise m
    · exact { h with latch := rfl }
  | wrRadioDatawhiteiv data =>
    rcases exec_faultsOrActs hx with ⟨m, rfl⟩ | ⟨_, _, rfl⟩
    · exact h.of_raise m
    · exact { h with hardwired := storedWhiteIv_hardwired data }
  | _ =>
    rcases exec_faultsOrActs hx with ⟨m, rfl⟩ | ⟨_, _, rfl⟩
    · exact h.of_raise m
    · exact { h with }

theorem Inv.of_driverStep (h : Inv s) (hd : driverStep s = .next t) : Inv t := by
  rcases driverStep_local_or_exec hd with hloc | ⟨_, _, _, _, hx⟩
  · exact h.of_localTo hloc
  · exact h.of_exec hx

/-- After each of its steps the radio holds no latch. -/
theorem Inv.of_radioStep (h : Inv s) (he : radioEnabled s = true) : Inv (radioStep s) := by
  rcases radioStep_cases he with ⟨_, hx⟩ | ⟨_, _, hx⟩ | ⟨_, hx⟩ <;> rw [hx] <;> exact { h with latch := rfl }

theorem Inv.of_tick (h : Inv s) : Inv (tick s) := { h with }

theorem Inv.of_passTurn (h : Inv s) : Inv s.passTurn := { h with }

end

/-- Settles O48: each agent's step keeps the invariant, and so does the turn that passes. -/
theorem everyStepKeepsInv : Obligations.EveryStepKeepsInv := by
  intro s t h hst
  obtain ⟨-, ⟨-, -, u, hu, rfl⟩ | ⟨-, he, rfl⟩ | ⟨-, -, rfl⟩ | rfl⟩ := step_cases s t hst
  · exact (h.of_driverStep hu).of_passTurn
  · exact (h.of_radioStep he).of_passTurn
  · exact h.of_tick.of_passTurn
  · exact h.of_passTurn

end Sys2Proof.Safety

/-!
PROOFS. The encoding (30_encoding.md): the admitted map's rows exclude each other, each row spells the operation whose word selects it,
and so `decode` and `encode` invert each other; what a DRIVER step does with a word of no row, and with a data word its operation
does not admit.
-/

namespace Sys2Proof

/-! ## The rows of the admitted map -/

theorem MapRow.hits_iff {r : MapRow} {dir : Dir} {addr : Word} :
    r.hits dir addr = true ↔ r.dir = dir ∧ addr &&& r.mask = r.pattern := by
  simp only [MapRow.hits, Bool.and_eq_true, decide_eq_true_eq]

/-- Two rows hit by one transaction have the same access, and their patterns agree where both masks look. -/
theorem MapRow.agree_of_hits {r r' : MapRow} {dir : Dir} {addr : Word} (h : r.hits dir addr = true)
    (h' : r'.hits dir addr = true) : r.dir = r'.dir ∧ r.pattern &&& r'.mask = r'.pattern &&& r.mask := by
  obtain ⟨rfl, hp⟩ := hits_iff.mp h
  obtain ⟨hd, hp'⟩ := hits_iff.mp h'
  exact ⟨hd.symm, by rw [← hp, ← hp', BitVec.and_assoc, BitVec.and_assoc, BitVec.and_comm r.mask]⟩

/-- R102: of two rows with the same access the patterns differ in a bit both masks look at. -/
theorem admittedMap_patterns_differ :
    admittedMap.Pairwise (fun r r' => ¬(r.dir = r'.dir ∧ r.pattern &&& r'.mask = r'.pattern &&& r.mask)) := by
  decide

/-- Settles O3: rows hit together would agree under both masks, and no two rows do. -/
theorem mapRowsExclude : Obligations.MapRowsExclude :=
  admittedMap_patterns_differ.imp fun hne _ _ ⟨h, h'⟩ => hne (MapRow.agree_of_hits h h')

/-! ## The decoder -/

/-- The data bits a transaction carries on issue: a read's are 0 (R95). -/
def Dir.issued (dir : Dir) (data : Word) : Word :=
  match dir with
  | .read => 0
  | .write => data

theorem Dir.issued_eq_self {dir : Dir} {data : Word} (h : dir = .read → data = 0) : dir.issued data = data := by
  cases dir with
  | read => exact (h rfl).symm
  | write => rfl

/-- A transaction decodes to what its row spells; a read with data bits set decodes to nothing. -/
theorem decodeTransaction_eq_some_iff (x : Transaction) (i : Instr) : decodeTransaction x = some i ↔
    ∃ r, findRow x.dir x.addr = some r ∧ (x.dir = .read → x.data = 0) ∧ r.spell x.addr x.data = i := by
  unfold decodeTransaction
  cases findRow x.dir x.addr with
  | none => simp
  | some r => by_cases hx : x.dir = .read ∧ x.data ≠ 0 <;> simp [hx]

/-- The row a transaction selects is in the map and is hit. -/
theorem findRow_mem_hits {dir : Dir} {addr : Word} {r : MapRow} (h : findRow dir addr = some r) :
    r ∈ admittedMap ∧ r.hits dir addr = true :=
  ⟨List.mem_of_find?_eq_some h, List.find?_some (p := fun q : MapRow => q.hits dir addr) h⟩

theorem findRow_eq_none {dir : Dir} {addr : Word} (h : ∀ r ∈ admittedMap, r.hits dir addr = false) :
    findRow dir addr = none :=
  List.find?_eq_none.mpr fun r hr => by simp [h r hr]

/-- A transaction of no row has no operation (R98). -/
theorem decode_eq_none_of_no_row {x : Transaction} (h : ∀ r ∈ admittedMap, r.hits x.dir x.addr = false) :
    decode (.bus (packTransaction x)) = none := by
  simp [decode, decodeTransaction, findRow_eq_none h]

/-- Every bit of a transaction word is its direction's, its address's or its data's (R95). -/
theorem pack_unpack (t : BusWord) : packTransaction (unpackTransaction t) = t := by
  have hdir : (unpackTransaction t).dir.bit = t.extractLsb' 64 1 := by
    ext k hk
    obtain rfl : k = 0 := by omega
    have hbit : (t.extractLsb' 64 1)[0] = t.getLsbD 64 := by simp
    rw [hbit, unpackTransaction]
    cases t.getLsbD 64 <;> simp [Dir.bit]
  calc packTransaction (unpackTransaction t)
      = t.extractLsb' 64 1 ++ t.extractLsb' 32 32 ++ t.extractLsb' 0 32 := by rw [packTransaction, hdir]; rfl
    _ = t.extractLsb' 32 33 ++ t.extractLsb' 0 32 := by
        rw [BitVec.extractLsb'_append_extractLsb'_eq_extractLsb' (by rfl : 64 = 32 + 32)]
    _ = t.extractLsb' 0 65 := BitVec.extractLsb'_append_extractLsb'_eq_extractLsb' (by rfl : 32 = 0 + 32)
    _ = t := BitVec.extractLsb'_eq_self

/-! ## What the rows spell -/

/-- The row spells, for every transaction that hits it, the operation whose word is that transaction. -/
def MapRow.SpellsItsWord (r : MapRow) : Prop :=
  ∀ addr data, r.hits r.dir addr = true →
    encode (r.spell addr data) = .bus (packTransaction ⟨r.dir, addr, r.dir.issued data⟩)

/-- A register's row is hit at its own address only (R98). -/
theorem registerRow_hits_iff {dir dir' : Dir} {addr addr' : Word} {admits : Option Word} {spell : Word → Instr} :
    (registerRow dir addr admits spell).hits dir' addr' = true ↔ dir = dir' ∧ addr' = addr := by
  have hmask : addr' &&& 0xFFFFFFFF = addr' := BitVec.and_allOnes
  simp only [MapRow.hits_iff, registerRow, hmask]

theorem registerRow_spellsItsWord {dir : Dir} {addr : Word} {admits : Option Word} {spell : Word → Instr}
    (h : ∀ data, encode (spell data) = .bus (packTransaction ⟨dir, addr, dir.issued data⟩)) :
    (registerRow dir addr admits spell).SpellsItsWord := by
  intro a data ha
  obtain ⟨-, rfl⟩ := registerRow_hits_iff.mp ha
  exact h data

/-- R102: the encoder and the map agree on every row. -/
theorem admittedMap_spellsItsWord : ∀ r ∈ admittedMap, r.SpellsItsWord := by
  simp only [admittedMap, radioTaskEventRows, radioRegisterRows, timerRows, List.forall_mem_append, List.forall_mem_cons,
    List.not_mem_nil, false_imp_iff, implies_true, and_true]
  refine ⟨⟨⟨?_, ?_⟩, ?_⟩, fun _ _ _ => rfl⟩
  all_goals and_intros
  all_goals exact registerRow_spellsItsWord fun _ => rfl

/-- What a transaction decodes to has that transaction as its word. -/
theorem encode_of_decodeTransaction {x : Transaction} {i : Instr} (h : decodeTransaction x = some i) :
    encode i = .bus (packTransaction x) := by
  obtain ⟨r, hr, hread, rfl⟩ := (decodeTransaction_eq_some_iff x i).mp h
  obtain ⟨hmem, hhits⟩ := findRow_mem_hits hr
  obtain ⟨dir, addr, data⟩ := x
  obtain rfl : r.dir = dir := (MapRow.hits_iff.mp hhits).1
  rw [admittedMap_spellsItsWord r hmem addr data hhits, Dir.issued_eq_self hread]

/-- What a selector and its operand decode to has them as its word: of all selectors and kinds of operand only R97's seven decode. -/
theorem encode_of_decodeCall {selector : BitVec 8} {arg : Arg} {i : Instr} (h : decodeCall selector arg = some i) :
    encode i = .call selector arg := by
  obtain ⟨n, hn⟩ := selector
  unfold decodeCall at h
  rcases n with _ | _ | _ | _ | _ | _ | _ | _ | n <;> cases arg <;> cases h <;> rfl

/-- Settles O2: a transaction by its row, a procedure by its selector. -/
theorem decodedWordIsItsEncoding : Obligations.DecodedWordIsItsEncoding := by
  intro c i h
  cases c with
  | bus t => rw [encode_of_decodeTransaction h, pack_unpack]
  | call selector arg => exact encode_of_decodeCall h

/-- Settles O1: a register operation by the row at its address, an `STB` by the row of the RAM window, a procedure by its selector. -/
theorem decodeEncodeRoundTrip : Obligations.DecodeEncodeRoundTrip := by
  intro i hi
  cases i with
  | stb addr data =>
    obtain ⟨hlo, hhi⟩ := (Safety.inRam_iff addr.toNat).mp hi
    exact decode_writeCode addr data stbRow (findRow_stb addr hlo hhi)
  | rdRadioReady | rdRadioEnd | rdTimerCompare0 => exact (decode_readCode _ _ rfl).trans rfl
  | callMain | callConfigure | callTransmit _ | callEncode _ | callTimerInit | callDelayMs _ | halt => rfl
  | _ => exact (decode_writeCode _ _ _ rfl).trans rfl

/-- Settles O4, by evaluation. -/
theorem specWordsDecode : Obligations.SpecWordsDecode := by
  unfold Obligations.SpecWordsDecode
  decide

end Sys2Proof

namespace Sys2Proof.Machine

/-! ## Refused words -/

section
variable {s : State} {addr data : Word}

theorem fail_faults (hf : s.fault = none) (m : FaultMark) : Claims.faults (fail m s) s m := by
  simp only [Claims.faults, fail, State.raise_eq m s hf]

/-- A write that answers `F_UNADMITTED` in every state, for whatever reason, is refused everywhere. -/
theorem refusedEverywhere_of_fail {i : Instr}
    (h : ∀ s, ∃ why, exec i s = fail (.unadmitted ⟨.write, addr, data⟩ why) s) : Claims.refusedEverywhere i addr data := by
  intro s hf
  obtain ⟨why, hx⟩ := h s
  exact ⟨why, hx ▸ fail_faults hf _⟩

/-- A timer task with another word than 1 is refused by value (R100). -/
theorem timerTask_of_ne {started : Timer} (h : data ≠ taskWord) :
    timerTask addr data started s = fail (.unadmitted ⟨.write, addr, data⟩ .value) s := if_pos h

/-- An event write with another word than 0 is refused by value (R101). -/
theorem clearEvent_of_ne {cleared : State} (h : data ≠ clearWord) :
    clearEvent addr data cleared s = fail (.unadmitted ⟨.write, addr, data⟩ .value) s := if_pos h

/-- `TXEN` with another word than 1 is refused: by value in `Idle` and `Disabled`, by state elsewhere (R137, R255). -/
theorem execTrigRadioTxen_of_ne (h : data ≠ taskWord) :
    ∃ why, execTrigRadioTxen data s = fail (.unadmitted ⟨.write, addrRadioTasksTxen, data⟩ why) s := by
  unfold execTrigRadioTxen
  cases s.radio.rs with
  | idle | disabled => exact ⟨.value, if_pos h⟩
  | enabling | ready | transmitting _ | ended => exact ⟨.txenWhileRadioBusy, rfl⟩

/-- `START` with another word than 1 is refused: by state outside `Ready`, by value in it (R139, R255). -/
theorem execTrigRadioStart_of_ne (h : data ≠ taskWord) :
    ∃ why, execTrigRadioStart data s = fail (.unadmitted ⟨.write, addrRadioTasksStart, data⟩ why) s := by
  by_cases hrs : s.radio.rs ≠ .ready
  · exact ⟨.startOutsideReady, if_pos hrs⟩
  · exact ⟨.value, (if_neg hrs).trans (if_pos h)⟩

/-- `DISABLE` with another word than 1 is refused: by state outside `Ended`, by value in it (R141, R255). -/
theorem execTrigRadioDisable_of_ne (h : data ≠ taskWord) :
    ∃ why, execTrigRadioDisable data s = fail (.unadmitted ⟨.write, addrRadioTasksDisable, data⟩ why) s := by
  by_cases hrs : s.radio.rs ≠ .ended
  · exact ⟨.disableOutsideEnded, if_pos hrs⟩
  · exact ⟨.value, (if_neg hrs).trans (if_pos h)⟩

end

/-- Settles O17: each task and event register by the check of its operation. -/
theorem taskAndEventWritesCheckTheirWord : Obligations.TaskAndEventWritesCheckTheirWord := by
  refine ⟨fun d hd => ⟨?_, ?_, ?_, ?_, ?_, ?_⟩, fun d hd => ⟨?_, ?_, ?_⟩⟩ <;> apply refusedEverywhere_of_fail <;> intro s
  · exact execTrigRadioTxen_of_ne hd
  · exact execTrigRadioStart_of_ne hd
  · exact execTrigRadioDisable_of_ne hd
  iterate 3 exact ⟨.value, timerTask_of_ne hd⟩
  iterate 3 exact ⟨.value, clearEvent_of_ne hd⟩

/-- Settles O29: the check of the data word comes first in `STB`. -/
theorem stbCarriesOneByte : Obligations.StbCarriesOneByte := fun _ _ hd =>
  refusedEverywhere_of_fail fun _ => ⟨.value, if_pos hd⟩

/-- An operation word that decodes to nothing raises its fault (R98). -/
theorem runCode_of_decode_none {c : Code} {s : State} (h : decode c = none) :
    runCode c s = fail (noSuchOperation c) s := by
  simp only [runCode, h]

/-- On its turn a running DRIVER runs the operation word of its line. -/
theorem step_runsCode {s : State} {c : Code} (h : Claims.driverMoves s) (hl : lineAt s = .op c) :
    step s = passTurnOf (runCode c s) := by
  obtain ⟨hf, ha, hm⟩ := h
  have he : driverEnabled s = true := by simp [driverEnabled, hm, hl]
  rw [step_driver hf ha he, driverStep, hl]

/-- Settles O5: the DRIVER runs the word, and the word decodes to nothing. -/
theorem unlistedTransactionFaults : Obligations.UnlistedTransactionFaults := by
  intro s x hmoves hl hrows
  have hfail : runCode (.bus (packTransaction x)) s = fail (.unadmitted x .noRow) s := by
    rw [runCode_of_decode_none (decode_eq_none_of_no_row hrows), noSuchOperation, unpack_pack]
  rw [step_runsCode hmoves hl, hfail, fail_faults hmoves.1]
  rfl

end Sys2Proof.Machine

/-!
PROOFS. The radio configuration (40_radio_configure.md): the rule of the twelve writes, what they store and that admitted operations
never undo it, where a step takes the DRIVER inside and outside `configure`, and a whole call of `configure`.
-/

namespace Sys2Proof.Machine

/-! ## The rule of a configuration write -/

/-- In `Idle` the block's word is stored. -/
theorem configWrite_of_idle {addr word : Word} {stored : Radio} {s : State} (hrs : s.radio.rs = .idle) :
    configWrite addr word word stored s = .next ({ s with radio := stored }).advance := by
  simp only [configWrite, hrs, ne_eq, not_true_eq_false, if_false]

/-- A configuration write obeys its rule: the state is checked first (R128), then the word (R99), then the word is stored. -/
theorem radioConfigRule_of_configWrite {i : Word → Instr} {addr word : Word} {after : Radio → Radio}
    (h : ∀ data s, ∃ stored, exec (i data) s = configWrite addr word data stored s ∧ (data = word → stored = after s.radio)) :
    Claims.radioConfigRule i addr word after := by
  intro s
  refine ⟨fun hf hrs d => ?_, fun hf hrs d hd => ?_, fun hrs => ?_⟩
  · obtain ⟨_, hx, -⟩ := h d s
    rw [hx, configWrite, if_pos hrs]
    exact fail_faults hf _
  · obtain ⟨_, hx, -⟩ := h d s
    rw [hx, configWrite, if_neg (not_not.mpr hrs), if_pos hd]
    exact fail_faults hf _
  · obtain ⟨stored, hx, hstored⟩ := h word s
    rw [hx, configWrite_of_idle hrs, hstored rfl]

/-- Settles O8: each write by the rule of the configuration writes, each field by evaluation. -/
theorem radioConfigWritesModeToBase : Obligations.RadioConfigWritesModeToBase := by
  refine ⟨?_, ?_, ?_, ?_, ?_, ?_, fun r => ?_⟩
  case refine_7 =>
    refine ⟨fun h => ?_, fun h => ?_, fun h => ?_, fun h => ?_, fun h => ?_, fun h => ?_⟩ <;>
      simp only [Radio.txpowerDbm, Radio.freqMhz, Radio.base, h] <;> decide
  all_goals exact radioConfigRule_of_configWrite fun _ _ => ⟨_, rfl, by rintro rfl; rfl⟩

/-- Settles O9: the same rule for the other six writes; `DATAWHITEIV` stores its hardwired bit with the word. -/
theorem radioConfigWritesPrefixToWhitening : Obligations.RadioConfigWritesPrefixToWhitening := by
  refine ⟨?_, ?_, ?_, ?_, ?_, ?_, fun r => ?_⟩
  case refine_7 =>
    refine ⟨fun h => ?_, fun h h' => ?_, fun h => ?_, fun h => ?_, fun h => ?_, fun h => ?_⟩
    case refine_2 => simp only [Radio.accessAddress, Radio.addressHigh, Radio.base, h, h']; decide
    all_goals simp only [Radio.addressHigh, Radio.poly, Radio.crcInitial, Radio.whiteIv, h]; decide
  all_goals exact radioConfigRule_of_configWrite fun _ _ => ⟨_, rfl, by rintro rfl; rfl⟩

/-! ## What the twelve writes store -/

@[simp] theorem effect_drv (i : Instr) (s : State) : (effect i s).drv = s.drv := by
  obtain ⟨_, _, _, h⟩ := effect_frame i s; rw [h]

/-- `configure`'s lines 1 to 12 (R115), in order. -/
def configureWrites : List Instr :=
  [.wrRadioMode wordRadioMode, .wrRadioFrequency wordRadioFrequency, .wrRadioPcnf0 wordRadioPcnf0,
    .wrRadioPcnf1 wordRadioPcnf1, .wrRadioBase0 wordRadioBase0, .wrRadioPrefix0 wordRadioPrefix0,
    .wrRadioTxaddress wordRadioTxaddress, .wrRadioCrccnf wordRadioCrccnf, .wrRadioCrcpoly wordRadioCrcpoly,
    .wrRadioCrcinit wordRadioCrcinit, .wrRadioTxpower wordRadioTxpower, .wrRadioDatawhiteiv wordRadioDatawhiteiv]

theorem configureLine_write (s : State) (k : Fin 12) : configureLine s (k + 1) = .issue configureWrites[k] := by
  fin_cases k <;> rfl

/-- Each of the twelve writes stores its word in its own register and in no other. -/
theorem effect_configureWrite_configWords (s : State) (k : Fin 12) :
    (effect configureWrites[k] s).radio.configWords = s.radio.configWords.set k blockConfigWords[k] := by
  fin_cases k <;> rfl

/-- An admitted operation leaves the configuration registers alone or is one of the twelve writes. -/
theorem effect_configWords_cases {i : Instr} (h : admittedData i = true) (s : State) :
    (effect i s).radio.configWords = s.radio.configWords ∨ ∃ k : Fin 12, i = configureWrites[k] := by
  cases i with
  | wrRadioMode d => exact .inr ⟨0, congrArg _ (of_decide_eq_true h)⟩
  | wrRadioFrequency d => exact .inr ⟨1, congrArg _ (of_decide_eq_true h)⟩
  | wrRadioPcnf0 d => exact .inr ⟨2, congrArg _ (of_decide_eq_true h)⟩
  | wrRadioPcnf1 d => exact .inr ⟨3, congrArg _ (of_decide_eq_true h)⟩
  | wrRadioBase0 d => exact .inr ⟨4, congrArg _ (of_decide_eq_true h)⟩
  | wrRadioPrefix0 d => exact .inr ⟨5, congrArg _ (of_decide_eq_true h)⟩
  | wrRadioTxaddress d => exact .inr ⟨6, congrArg _ (of_decide_eq_true h)⟩
  | wrRadioCrccnf d => exact .inr ⟨7, congrArg _ (of_decide_eq_true h)⟩
  | wrRadioCrcpoly d => exact .inr ⟨8, congrArg _ (of_decide_eq_true h)⟩
  | wrRadioCrcinit d => exact .inr ⟨9, congrArg _ (of_decide_eq_true h)⟩
  | wrRadioTxpower d => exact .inr ⟨10, congrArg _ (of_decide_eq_true h)⟩
  | wrRadioDatawhiteiv d => exact .inr ⟨11, congrArg _ (of_decide_eq_true h)⟩
  | trigRadioTxen _ | trigRadioStart _ => exact .inl (by simp only [effect]; split <;> rfl)
  | _ => exact .inl rfl

/-- A radio that holds the block's configuration holds it after every admitted operation, the twelve writes among them. -/
theorem effect_configWords_of_configured {i : Instr} {s : State} (h : admittedData i = true)
    (hs : s.radio.configWords = blockConfigWords) : (effect i s).radio.configWords = blockConfigWords := by
  rcases effect_configWords_cases h s with hsame | ⟨k, rfl⟩
  · rw [hsame, hs]
  · rw [effect_configureWrite_configWords, hs]
    exact List.set_getElem_self _

theorem Radio.blockConfigured_iff {r : Radio} : r.blockConfigured = true ↔ r.configWords = blockConfigWords :=
  decide_eq_true_iff

/-- A DRIVER step leaves a radio that holds the block's configuration with it. -/
theorem driverStep_configWords {s t : State} (h : driverStep s = .next t) (hs : s.radio.configWords = blockConfigWords) :
    t.radio.configWords = blockConfigWords := by
  rcases driverStep_effects h with ⟨_, _, _, rfl⟩ | ⟨_, _, _, -, -, admitted, rfl⟩
  · exact hs
  · exact effect_configWords_of_configured admitted hs

/-- A RADIO step leaves the configuration registers and the DRIVER alone. -/
theorem radioStep_frame (s : State) :
    (radioStep s).radio.configWords = s.radio.configWords ∧ (radioStep s).drv = s.drv := by
  unfold radioStep
  split <;> exact ⟨rfl, rfl⟩

/-! ## Where the DRIVER goes -/

/-- Where one step takes the sequence pointer and the callers: within the procedure, to the end of `main` or to `halt`, into a
procedure, or back to the last caller. -/
inductive SeqMove (d : Driver) : Seq → List Seq → Prop
  | within {q : Seq} (same : q.proc = d.seq.proc) : SeqMove d q d.callers
  | ends {q : Seq} (ended : q.proc = .main ∨ q.proc = .halt) : SeqMove d q d.callers
  | into (p : Proc) : SeqMove d ⟨p, p.firstLine, 0⟩ (d.seq.next :: d.callers)
  | back {q : Seq} {rest : List Seq} (caller : d.callers = q :: rest) : SeqMove d q rest

/-- A DRIVER step moves the sequence pointer, and sets `configured` at `configure`'s last line only. -/
structure DriverMove (d d' : Driver) : Prop where
  seq : SeqMove d d'.seq d'.callers
  configured : d'.configured = d.configured ∨ (d'.configured = true ∧ d.seq.proc = .configure ∧ d.seq.line = 13)

section
variable {s t u : State} {d d' : Driver}

theorem DriverMove.within (hp : d'.seq.proc = d.seq.proc) (hc : d'.callers = d.callers)
    (hf : d'.configured = d.configured) : DriverMove d d' :=
  ⟨hc ▸ .within hp, .inl hf⟩

theorem SeqMove.of_ret (h : u.drv.callers = d.callers) : SeqMove d u.ret.drv.seq u.ret.drv.callers := by
  unfold State.ret
  split
  · rename_i hq; exact .back (h ▸ hq)
  · exact h ▸ .ends (.inl rfl)

theorem DriverMove.ret (hc : u.drv.callers = d.callers) (hf : u.drv.configured = d.configured) :
    DriverMove d u.ret.drv :=
  ⟨.of_ret hc, .inl ((State.ret_drv_configured u).trans hf)⟩

theorem DriverMove.raise (m : FaultMark) (s : State) : DriverMove s.drv (s.raise m).drv := by
  rw [State.raise_drv]
  exact .within rfl rfl rfl

/-- What every operation can do to the DRIVER. -/
theorem exec_driverMove {i : Instr} (h : exec i s = .next t) : DriverMove s.drv t.drv := by
  have goesOn (r : Radio) (tm : Timer) (m : Memory) :
      DriverMove s.drv ({ s with radio := r, timer := tm, ram := m } : State).advance.drv :=
    .within (Seq.next_proc _) rfl rfl
  cases i with
  | trigRadioTxen data =>
    rcases execTrigRadioTxen_cases _ _ _ h with ⟨m, rfl⟩ | ⟨-, -, rfl⟩ | ⟨-, -, rfl⟩
    · exact .raise m s
    · exact .within rfl rfl rfl
    · exact goesOn _ _ _
  | trigRadioStart data =>
    rcases execTrigRadioStart_cases _ _ _ h with ⟨m, rfl⟩ | ⟨_, -, -, -, -, rfl⟩
    · exact .raise m s
    · exact goesOn _ _ _
  | trigRadioDisable data =>
    rcases execTrigRadioDisable_cases _ _ _ h with ⟨m, rfl⟩ | ⟨-, -, rfl⟩
    · exact .raise m s
    · exact goesOn _ _ _
  | stb addr data =>
    rcases execStb_cases _ _ _ _ h with ⟨m, rfl⟩ | ⟨-, -, -, rfl⟩
    · exact .raise m s
    · exact goesOn _ _ _
  | clrRadioReady _ | clrRadioEnd _ | clrTimerCompare0 _ =>
    rcases clearEvent_cases _ _ _ _ _ h with ⟨m, rfl⟩ | ⟨-, rfl⟩
    · exact .raise m s
    · exact goesOn _ _ _
  | wrRadioFrequency _ | wrRadioTxpower _ | wrRadioMode _ | wrRadioPcnf0 _ | wrRadioPcnf1 _ | wrRadioBase0 _
  | wrRadioPrefix0 _ | wrRadioTxaddress _ | wrRadioCrccnf _ | wrRadioCrcpoly _ | wrRadioCrcinit _
  | wrRadioDatawhiteiv _ =>
    rcases configWrite_cases _ _ _ _ _ _ h with ⟨m, rfl⟩ | ⟨-, -, rfl⟩
    · exact .raise m s
    · exact goesOn _ _ _
  | trigTimerStart _ | trigTimerStop _ | trigTimerClear _ =>
    rcases timerTask_cases _ _ _ _ _ h with ⟨m, rfl⟩ | ⟨-, rfl⟩
    · exact .raise m s
    · exact goesOn _ _ _
  | wrTimerMode _ | wrTimerBitmode _ | wrTimerPrescaler _ =>
    rcases timerConfigWrite_cases _ _ _ _ _ _ h with ⟨m, rfl⟩ | ⟨-, -, rfl⟩
    · exact .raise m s
    · exact goesOn _ _ _
  | wrRadioPacketptr _ | wrTimerCc0 _ => cases h; exact goesOn _ _ _
  | rdRadioReady | rdRadioEnd | rdTimerCompare0 => cases h; exact .within (Seq.next_proc _) rfl rfl
  | callMain | callConfigure | callTransmit _ | callEncode _ | callTimerInit | callDelayMs _ =>
    cases h; exact ⟨.into _, .inl rfl⟩
  | halt => cases h; exact ⟨.ends (.inr rfl), .inl rfl⟩

/-- A line's own computation moves the DRIVER. -/
def Line.Moves (s : State) : Line → Prop
  | .compute t => DriverMove s.drv t.drv
  | _ => True

@[simp] theorem Line.moves_exit : Line.exit.Moves s := trivial
@[simp] theorem Line.moves_op (c : Code) : (Line.op c).Moves s := trivial
@[simp] theorem Line.moves_poll (c : Code) : (Line.poll c).Moves s := trivial
@[simp] theorem Line.moves_issue (i : Instr) : (Line.issue i).Moves s := trivial
@[simp] theorem Line.moves_await (e : Event) : (Line.await e).Moves s := trivial
@[simp] theorem Line.moves_compute : (Line.compute t).Moves s ↔ DriverMove s.drv t.drv := Iff.rfl
@[simp] theorem Line.moves_raise (m : FaultMark) : (Line.raise m s).Moves s := .raise m s

theorem mainLine_moves (hp : s.drv.seq.proc = .main) (line : Nat) : (mainLine s line).Moves s := by
  unfold mainLine
  repeat' split
  all_goals simp
  all_goals exact .within (by simp [hp, Seq.exit]) (by simp) (by simp)

theorem configureLine_moves (hp : s.drv.seq.proc = .configure) : (configureLine s s.drv.seq.line).Moves s := by
  unfold configureLine
  repeat' split
  case h_1.isFalse => exact .within (Seq.next_proc _) rfl rfl
  case h_14 hl => exact ⟨.of_ret rfl, .inr ⟨by simp, hp, hl⟩⟩
  all_goals simp

theorem transmitLine_moves (a : Word) (line : Nat) : (transmitLine a s line).Moves s := by
  unfold transmitLine
  repeat' split
  case h_1.isTrue => exact .within (Seq.next_proc _) rfl rfl
  case h_11 => exact .ret rfl rfl
  all_goals simp

theorem encodeLine_moves (name : List Byte) (line sub : Nat) : (encodeLine name s line sub).Moves s := by
  unfold encodeLine
  repeat' split
  case h_1.isTrue => exact .within (Seq.next_proc _) rfl rfl
  case h_1.isFalse | h_2 => exact .ret rfl rfl
  all_goals simp

theorem timerInitLine_moves (line : Nat) : (timerInitLine s line).Moves s := by
  unfold timerInitLine
  split
  case h_4 => exact .ret rfl rfl
  all_goals simp

theorem delayMsLine_moves (n : Word) (line : Nat) : (delayMsLine n s line).Moves s := by
  unfold delayMsLine
  repeat' split
  case h_1.isTrue => exact .within (Seq.next_proc _) rfl rfl
  case h_2 => exact .within (Seq.next_proc _) rfl rfl
  case h_9 => exact .ret rfl rfl
  all_goals simp

theorem foreignLine_moves (line : Nat) : (foreignLine s line).Moves s := by
  unfold foreignLine
  split <;> simp

theorem lineAt_moves (s : State) : (lineAt s).Moves s := by
  unfold lineAt
  split
  · rename_i hp; exact mainLine_moves hp _
  · rename_i hp; exact configureLine_moves hp
  · exact transmitLine_moves _ _
  · exact encodeLine_moves _ _ _
  · exact timerInitLine_moves _
  · exact delayMsLine_moves _ _
  · split <;> simp
  · exact foreignLine_moves _

theorem runCode_driverMove {c : Code} (h : runCode c s = .next t) : DriverMove s.drv t.drv := by
  rcases runCode_cases c s with ⟨-, hx⟩ | ⟨i, -, hx⟩
  · cases hx.symm.trans h
    simp [DriverMove.within]
  · exact exec_driverMove (hx.symm.trans h)

/-- What every DRIVER step does to the sequence pointer, the callers and `configured`. -/
theorem driverStep_driverMove (h : driverStep s = .next t) : DriverMove s.drv t.drv := by
  rcases driverStep_cases _ _ h with ⟨-, rfl⟩ | hl | ⟨c, -, hr⟩ | ⟨c, u, hl, hr, rfl | rfl⟩
  · exact .within rfl rfl rfl
  · simpa [hl] using lineAt_moves s
  · exact runCode_driverMove hr
  · exact runCode_driverMove hr
  · have hc := lineAt_contained s
    rw [hl] at hc
    obtain ⟨e, rfl⟩ := hc
    have hd : decode (encode e.read) = some e.read := by cases e <;> rfl
    simp only [runCode, hd] at hr
    cases e <;> cases hr <;> exact .within rfl rfl rfl

end

/-! ## Inside `configure` -/

section
variable {s t : State}

/-- In `Idle` each of the twelve writes stores its word and goes on. -/
theorem exec_configureWrite (k : Fin 12) (hrs : s.radio.rs = .idle) :
    exec configureWrites[k] s = .next (effect configureWrites[k] s).advance := by
  fin_cases k <;> exact configWrite_of_idle hrs

/-- Each of the twelve writes faults, or stores its word and goes on. -/
theorem exec_configureWrite_cases (k : Fin 12) (h : exec configureWrites[k] s = .next t) :
    (∃ m, t = s.raise m) ∨ t = (effect configureWrites[k] s).advance := by
  fin_cases k <;> exact (configWrite_cases _ _ _ _ _ _ h).imp_right fun hw => hw.2.2

theorem lineAt_configureWrite (k : Fin 12) (hp : s.drv.seq.proc = .configure) (hn : s.drv.seq.line = k + 1) :
    lineAt s = .issue configureWrites[k] := by
  simp only [lineAt, hp, hn, configureLine_write]

theorem decode_configureWrite (k : Fin 12) : decode (encode configureWrites[k]) = some configureWrites[k] :=
  decodeEncodeRoundTrip _ (by fin_cases k <;> rfl)

/-- Inside `configure` a DRIVER step stays (a fault, or no line there), goes on from line 0, stores the register of lines 1 to 12, or
returns from line 13. -/
theorem driverStep_configure_cases (hp : s.drv.seq.proc = .configure) (h : driverStep s = .next t) :
    (t.drv = s.drv ∧ t.radio = s.radio) ∨
      (s.drv.seq.line = 0 ∧ t = s.advance) ∨
      (∃ k : Fin 12, s.drv.seq.line = k + 1 ∧ t = (effect configureWrites[k] s).advance) ∨
      (s.drv.seq.line = 13 ∧ t = (s.setDrv { s.drv with configured := true }).ret) := by
  have hl : lineAt s = configureLine s s.drv.seq.line := by simp only [lineAt, hp]
  have hn : s.drv.seq.line = 0 ∨ (∃ k : Fin 12, s.drv.seq.line = k + 1) ∨ s.drv.seq.line = 13 ∨ 14 ≤ s.drv.seq.line := by
    by_cases hn : 1 ≤ s.drv.seq.line ∧ s.drv.seq.line ≤ 12
    · exact .inr (.inl ⟨⟨s.drv.seq.line - 1, by omega⟩, by simp; omega⟩)
    · omega
  rcases hn with hn | ⟨k, hn⟩ | hn | hn
  · rw [hn, configureLine] at hl
    split at hl <;> cases (driverStep_compute hl).symm.trans h
    · exact .inl ⟨State.raise_drv _ _, State.raise_radio _ _⟩
    · exact .inr (.inl ⟨hn, rfl⟩)
  · have hx := driverStep_issue (lineAt_configureWrite k hp hn) (decode_configureWrite k)
    rcases exec_configureWrite_cases k (hx.symm.trans h) with ⟨m, rfl⟩ | rfl
    · exact .inl ⟨State.raise_drv m s, State.raise_radio m s⟩
    · exact .inr (.inr (.inl ⟨k, hn, rfl⟩))
  · rw [hn, configureLine] at hl
    cases (driverStep_compute hl).symm.trans h
    exact .inr (.inr (.inr ⟨hn, rfl⟩))
  · obtain ⟨n, hn⟩ := Nat.exists_eq_add_of_le' hn
    rw [hn, configureLine] at hl
    · simp only [driverStep, hl] at h
      cases h
      exact .inl ⟨rfl, rfl⟩
    all_goals omega

end

end Sys2Proof.Machine

namespace Sys2Proof.Safety

open Sys2Proof.Machine

section
variable {s t : State}

theorem configPrefix_iff {k : Nat} :
    configPrefix s k = true ↔ s.radio.configWords.take k = blockConfigWords.take k :=
  decide_eq_true_iff

/-- Storing the next register extends the prefix. -/
theorem configPrefix_set (k : Fin 12) (hs : configPrefix s k = true)
    (ht : t.radio.configWords = s.radio.configWords.set k blockConfigWords[k]) : configPrefix t (k + 1) = true := by
  rw [configPrefix_iff] at hs ⊢
  rw [ht, List.take_add_one, List.take_set_of_le (Nat.le_refl _), hs, List.take_add_one]
  simp [Radio.configWords, blockConfigWords]

/-- The twelve registers are all of them. -/
theorem blockConfigured_of_configPrefix (h : configPrefix s 12 = true) : s.radio.blockConfigured = true :=
  Radio.blockConfigured_iff.mpr (configPrefix_iff.mp h)

/-- No return leads into `configure`. -/
theorem ret_outside (h : ∀ q ∈ s.drv.callers, q.proc ≠ .configure) :
    s.ret.drv.seq.proc ≠ .configure ∧ ∀ q ∈ s.ret.drv.callers, q.proc ≠ .configure := by
  cases hc : s.drv.callers with
  | nil => simp [State.ret, State.setSeq, Seq.exit, hc]
  | cons q rest => simpa [State.ret, hc] using h

/-- Outside `configure` a DRIVER step enters it at line 0 at most, and leaves no caller in it. -/
theorem ConfigInv.entry_of_outside (h : ConfigInv s) (hp : s.drv.seq.proc ≠ .configure) (hm : DriverMove s.drv t.drv) :
    (t.drv.seq.proc = .configure → t.drv.seq.line = 0) ∧ ∀ q ∈ t.drv.callers, q.proc ≠ .configure := by
  obtain ⟨hq, -⟩ := hm
  generalize t.drv.seq = q, t.drv.callers = callers at hq
  cases hq with
  | within same => exact ⟨fun hc => absurd (same ▸ hc) hp, h.callers⟩
  | ends ended => exact ⟨fun hc => by simp [hc] at ended, h.callers⟩
  | into p => exact ⟨fun hc => by cases hc; rfl, by simpa [hp] using h.callers⟩
  | back caller =>
    have hall := h.callers
    rw [caller, List.forall_mem_cons] at hall
    exact ⟨fun hc => absurd hc hall.1, hall.2⟩

/-- Inside `configure` a DRIVER step keeps the registers of the lines done, or has returned from it. -/
theorem ConfigInv.progress_of_inside (h : ConfigInv s) (hp : s.drv.seq.proc = .configure) (hd : driverStep s = .next t) :
    (t.drv.seq.proc = .configure → configPrefix t (t.drv.seq.line - 1) = true) ∧
      ∀ q ∈ t.drv.callers, q.proc ≠ .configure := by
  have hnext : s.drv.seq.next.line = s.drv.seq.line + 1 := by simp [Seq.next, hp]
  rcases driverStep_configure_cases hp hd with ⟨hdrv, hradio⟩ | ⟨hn, rfl⟩ | ⟨k, hn, rfl⟩ | ⟨-, rfl⟩
  · exact ⟨by simpa [configPrefix, hdrv, hradio] using h.progress, by simpa [hdrv] using h.callers⟩
  · exact ⟨fun _ => by simp [configPrefix, hnext, hn], h.callers⟩
  · have hk : configPrefix s k = true := by simpa [hn] using h.progress hp
    refine ⟨fun _ => ?_, by simpa using h.callers⟩
    have hset : configPrefix (effect configureWrites[k] s).advance (k + 1) = true :=
      configPrefix_set k hk (effect_configureWrite_configWords s k)
    simpa [hnext, hn] using hset
  · obtain ⟨hproc, hcallers⟩ := ret_outside (s := s.setDrv { s.drv with configured := true }) h.callers
    exact ⟨fun hc => absurd hc hproc, hcallers⟩

/-- A DRIVER step keeps the invariant: outside `configure` by where it goes, inside by what its line stores. -/
theorem ConfigInv.of_driverStep (h : ConfigInv s) (hd : driverStep s = .next t) : ConfigInv t := by
  have hm := driverStep_driverMove hd
  have before : t.drv.configured = true → s.radio.blockConfigured = true := by
    intro ht
    rcases hm.configured with hsame | ⟨-, hp, hn⟩
    · exact h.configured (hsame ▸ ht)
    · exact blockConfigured_of_configPrefix (by simpa [hn] using h.progress hp)
  have configured : t.drv.configured = true → t.radio.blockConfigured = true := fun ht =>
    Radio.blockConfigured_iff.mpr (driverStep_configWords hd (Radio.blockConfigured_iff.mp (before ht)))
  by_cases hp : s.drv.seq.proc = .configure
  · obtain ⟨progress, callers⟩ := h.progress_of_inside hp hd
    exact ⟨configured, progress, callers⟩
  · obtain ⟨entry, callers⟩ := h.entry_of_outside hp hm
    exact ⟨configured, fun hc => by simp [configPrefix, entry hc], callers⟩

theorem ConfigInv.of_frame (h : ConfigInv s) (hr : t.radio.configWords = s.radio.configWords) (hd : t.drv = s.drv) :
    ConfigInv t := by
  obtain ⟨configured, progress, callers⟩ := h
  constructor <;> simpa only [Radio.blockConfigured, configPrefix, hr, hd]

end

/-- Settles O49: the DRIVER's step by where it goes; the other agents touch neither the DRIVER nor the configuration registers. -/
theorem everyStepKeepsConfigInv : Obligations.EveryStepKeepsConfigInv := by
  intro s t h hst
  obtain ⟨-, ⟨-, -, u, hu, rfl⟩ | ⟨-, -, rfl⟩ | ⟨-, -, rfl⟩ | rfl⟩ := step_cases s t hst
  · exact (h.of_driverStep hu).of_frame rfl rfl
  · obtain ⟨hr, hd⟩ := radioStep_frame s
    exact h.of_frame hr hd
  · exact h.of_frame rfl rfl
  · exact h.of_frame rfl rfl

/-- Settles O50: writing the block's words again changes nothing, and nothing clears `configured`. -/
theorem configurationNeverChanges : Obligations.ConfigurationNeverChanges := by
  intro s t h hc hst
  have hs : s.radio.configWords = blockConfigWords := Radio.blockConfigured_iff.mp (h.configured hc)
  obtain ⟨-, ⟨-, -, u, hu, rfl⟩ | ⟨-, -, rfl⟩ | ⟨-, -, rfl⟩ | rfl⟩ := step_cases s t hst
  · refine ⟨(driverStep_configWords hu hs).trans hs.symm, ?_⟩
    rcases (driverStep_driverMove hu).configured with hsame | ⟨hset, -⟩
    · exact hsame.trans hc
    · exact hset
  · obtain ⟨hr, hd⟩ := radioStep_frame s
    exact ⟨hr, hd ▸ hc⟩
  · exact ⟨rfl, hc⟩
  · exact ⟨rfl, hc⟩

end Sys2Proof.Safety

namespace Sys2Proof.Machine

/-! ## A whole call of `configure` -/

/-- What a configuration write leaves in the radio: its effect on a state that holds it. -/
def storeWrite (r : Radio) (i : Instr) : Radio := (effect i { State.reset with radio := r }).radio

/-- Each of the twelve writes acts on the radio only, and by the radio's own registers. -/
theorem effect_configureWrite (s : State) (k : Fin 12) :
    effect configureWrites[k] s = { s with radio := storeWrite s.radio configureWrites[k] } := by
  fin_cases k <;> rfl

theorem storeWrite_configureWrite_rs (r : Radio) (k : Fin 12) : (storeWrite r configureWrites[k]).rs = r.rs := by
  fin_cases k <;> rfl

/-- A DRIVER that is about to move at a local computation leaves its state. -/
theorem step_compute {s u : State} (h : Claims.driverMoves s) (hl : lineAt s = .compute u) :
    step s = .next u.passTurn := by
  obtain ⟨hf, ha, hm⟩ := h
  have he : driverEnabled s = true := by simp [driverEnabled, hm, hl]
  rw [step_driver hf ha he, driverStep_compute hl]
  rfl

/-- `s` taken to a line of `configure`, with a radio, with the turns to come and `n` steps on. -/
def State.configuring (s : State) (line : Nat) (r : Radio) (turns : List Agent) (n : Nat) : State :=
  { s with drv := { s.drv with seq := ⟨.configure, line, 0⟩ }, radio := r, turns := turns, clock := s.clock + n }

section
variable {s : State} {r : Radio} {rest : List Agent} {line n : Nat}

theorem configuring_driverMoves (hf : s.fault = none) (hm : s.drv.mode = .running) :
    Claims.driverMoves (s.configuring line r (.driver :: rest) n) :=
  ⟨hf, rfl, hm⟩

/-- At lines 1 to 12 with an idle radio, a step stores the line's register and goes to the next line. -/
theorem step_configuring (k : Fin 12) (hf : s.fault = none) (hm : s.drv.mode = .running) (hrs : r.rs = .idle) :
    step (s.configuring (k + 1) r (.driver :: rest) n) =
      .next (s.configuring (k + 2) (storeWrite r configureWrites[k]) rest (n + 1)) := by
  rw [stepRunsDecodedOperation _ _ _ (configuring_driverMoves hf hm) (lineAt_configureWrite k rfl rfl)
    (decode_configureWrite k), exec_configureWrite k hrs, effect_configureWrite]
  rfl

/-- Lines `k + 1` to 12 on the DRIVER's next turns: each stores its register. -/
theorem run_configuring {j k : Nat} (hk : k + j = 12) (hf : s.fault = none) (hm : s.drv.mode = .running)
    (hrs : r.rs = .idle) (m : Nat) :
    Host.Core.run Sys2Proof.core (m + j) (s.configuring (k + 1) r (List.replicate j .driver ++ rest) n) =
      Host.Core.run Sys2Proof.core m
        (s.configuring 13 ((configureWrites.drop k).foldl storeWrite r) rest (n + j)) := by
  induction j generalizing k r n with
  | zero =>
    obtain rfl : k = 12 := hk
    rfl
  | succ j ih =>
    have hk' : k < 12 := by omega
    have hdrop : configureWrites.drop k = configureWrites[k] :: configureWrites.drop (k + 1) :=
      List.drop_eq_getElem_cons hk'
    have hj : k + 1 + j = 12 := by omega
    have hrs' := (storeWrite_configureWrite_rs r ⟨k, hk'⟩).trans hrs
    rw [hdrop, List.foldl_cons, show n + (j + 1) = n + 1 + j by omega]
    exact (run_of_next _ (step_configuring ⟨k, hk'⟩ hf hm hrs)).trans (ih hj hrs')

end

/-- Settles O10: line 0 finds `configured` clear, lines 1 to 12 store, line 13 returns. -/
theorem configureTakesFourteenSteps : Obligations.ConfigureTakesFourteenSteps := by
  intro s caller callers rest hf hm hq hcallers hc hrs ht
  have start : s = s.configuring 0 s.radio (List.replicate 14 .driver ++ rest) 0 := by
    rw [State.configuring, ← hq, ← ht]; rfl
  have entry : step (s.configuring 0 s.radio (List.replicate 14 .driver ++ rest) 0) =
      .next (s.configuring 1 s.radio (List.replicate 12 .driver ++ .driver :: rest) 1) := by
    have hl (ts : List Agent) : lineAt (s.configuring 0 s.radio ts 0) = .compute (s.configuring 0 s.radio ts 0).advance := by
      simp [lineAt, State.configuring, configureLine, hc]
    exact step_compute (configuring_driverMoves hf hm) (hl _)
  have last (r : Radio) : step (s.configuring 13 r (.driver :: rest) 13) = .next { s with
      drv := { s.drv with configured := true, seq := caller, callers := callers }
      radio := r, turns := rest, clock := s.clock + 14 } := by
    rw [step_compute (configuring_driverMoves hf hm) rfl]
    simp [State.ret, State.configuring, State.setDrv, State.passTurn, hcallers]
  have run : Claims.runSteps 14 s =
      Claims.runSteps 1 (s.configuring 13 (configureWrites.foldl storeWrite s.radio) (.driver :: rest) 13) := calc
    Claims.runSteps 14 s
      = Claims.runSteps 14 (s.configuring 0 s.radio (List.replicate 14 .driver ++ rest) 0) := by rw [← start]
    _ = Claims.runSteps 13 (s.configuring 1 s.radio (List.replicate 12 .driver ++ .driver :: rest) 1) := run_of_next 13 entry
    _ = Claims.runSteps 1 (s.configuring 13 (configureWrites.foldl storeWrite s.radio) (.driver :: rest) 13) :=
        run_configuring (j := 12) (k := 0) (n := 1) rfl hf hm hrs 1
  exact run.trans (run_of_next 0 (last _))

end Sys2Proof.Machine

/-!
PROOFS. Radio transmit sequencing (41_radio_transmit.md): the operations and the RADIO's steps, the six edges of the radio's state,
the waits with and without their agent's steps, and a whole call of `transmit`, on fixed turns and under weak fairness.
-/

namespace Sys2Proof.Machine

/-! ## The transmit operations -/

/-- Settles O11: the write has no check. -/
theorem packetptrWriteAlwaysStores : Obligations.PacketptrWriteAlwaysStores := fun _ _ => rfl

/-- An event write of 0 clears (R101). -/
theorem clearEvent_clearWord (addr : Word) (cleared s : State) :
    clearEvent addr clearWord cleared s = .next cleared.advance :=
  if_neg (not_not.mpr rfl)

/-- Settles O15: each clear is an event write of 0. -/
theorem eventClearsWriteZero : Obligations.EventClearsWriteZero := fun s =>
  ⟨clearEvent_clearWord addrRadioEventsReady _ s, clearEvent_clearWord addrRadioEventsEnd _ s,
    clearEvent_clearWord addrTimerEventsCompare0 _ s⟩

/-- Settles O16: each read is `readEvent` of its flag. -/
theorem eventReadsReturnTheFlag : Obligations.EventReadsReturnTheFlag := fun _ => ⟨rfl, rfl, rfl⟩

/-- A write that answers a fault in an unfaulted state sets the mark and nothing else (R256). -/
theorem faults_of_fail {o : Result} {s : State} {m : FaultMark} (hf : s.fault = none) (hx : o = fail m s) :
    Claims.faults o s m :=
  hx.trans (fail_faults hf m)

/-- Settles O12: the radio's state decides. -/
theorem txenByRadioState : Obligations.TxenByRadioState := by
  intro s
  refine ⟨fun h => ?_, fun h => ?_, fun hf hidle hdisabled => ?_⟩
  · simp only [exec, execTrigRadioTxen, h]; rfl
  · simp only [exec, execTrigRadioTxen, h]; rfl
  · refine faults_of_fail hf ?_
    simp only [exec, execTrigRadioTxen]
    cases hrs : s.radio.rs with
    | idle => exact absurd hrs hidle
    | disabled => exact absurd hrs hdisabled
    | enabling | ready | transmitting _ | ended => rfl

/-- Settles O14: the check of the radio's state comes first, and the word is the admitted one. -/
theorem disableOnlyInEnded : Obligations.DisableOnlyInEnded := fun _ =>
  ⟨fun h => (if_neg (not_not.mpr h)).trans (if_neg (not_not.mpr rfl)),
    fun hf h => faults_of_fail hf (if_pos h)⟩

/-- `START`'s check of the pointer as numbers (R81, R139). -/
theorem packetInRam_iff (s : State) (ptr : Word) : packetInRam s ptr = true ↔
    ptr.toNat % 4 = 0 ∧ 0x20000000 ≤ ptr.toNat ∧ ptr.toNat + 1 ≤ 0x2001FFFF ∧
      ptr.toNat + 1 + payloadLength s ptr ≤ 0x2001FFFF := by
  simp only [packetInRam, Bool.and_eq_true, decide_eq_true_eq, and_assoc]
  rfl

section
variable {s : State} {ptr : Word}

/-- `START` in `Ready` with a pointer checks the packet. -/
theorem exec_start_of_ready (hrs : s.radio.rs = .ready) (hp : s.radio.packetptr = some ptr) :
    exec (.trigRadioStart 1) s =
      if packetInRam s ptr then
        .next ({ s with radio := { s.radio with rs := .transmitting (latchAt s ptr) } }).advance
      else fail (.badPacketptr ptr) s := by
  simp only [exec, execTrigRadioStart, hrs, hp]
  rfl

/-- `START` with an admitted packet latches it. -/
theorem exec_start_of_packet (hrs : s.radio.rs = .ready) (hp : s.radio.packetptr = some ptr)
    (hin : packetInRam s ptr = true) : exec (.trigRadioStart 1) s =
      .next ({ s with radio := { s.radio with rs := .transmitting (latchAt s ptr) } }).advance :=
  (exec_start_of_ready hrs hp).trans (if_pos hin)

end

/-- Settles O13: the radio's state, the pointer's being there, then its packet, by `exec_start_of_ready`. -/
theorem startLatchesThePacket : Obligations.StartLatchesThePacket := by
  intro s
  refine ⟨fun hf hrs => ?_, fun hf hrs hp => ?_, fun ptr hrs hp => ⟨fun hf hbad => ?_, fun h4 hlo hhi => ?_⟩, fun h => ?_⟩
  · exact faults_of_fail hf (if_pos hrs)
  · refine faults_of_fail hf ?_
    simp only [exec, execTrigRadioStart, hrs, hp]
    rfl
  · have hout : ¬ packetInRam s ptr = true := by
      rw [packetInRam_iff, payloadLength, Radio.maxlen]
      omega
    exact faults_of_fail hf ((exec_start_of_ready hrs hp).trans (if_neg hout))
  · exact exec_start_of_packet hrs hp
      ((packetInRam_iff s ptr).mpr ⟨h4, hlo, le_trans (Nat.le_add_right _ _) hhi, hhi⟩)
  · rw [h]; decide

/-! ## The RADIO's turn and the DRIVER's wait -/

/-- An unfaulted state on the turn of a RADIO with a step takes it. -/
theorem step_radio {s : State} (hf : s.fault = none) (ha : s.nextAgent = .radio) (he : radioEnabled s = true) :
    step s = .next (radioStep s).passTurn := by
  simp only [step, agentTurn, hf, ha, he, if_true]

/-- Settles O18: the RADIO's step in each of its three states. -/
theorem radioAgentSteps : Obligations.RadioAgentSteps := by
  intro s hf ha
  refine ⟨fun h => ?_, fun l h => ?_, fun h => ?_⟩ <;>
    rw [step_radio hf ha (by simp only [radioEnabled, h])] <;> simp only [radioStep, h] <;> rfl

/-- Settles O7: a running DRIVER at a `WAIT` is enabled, and its step is the read. -/
theorem waitReadsAndStaysUntilSet : Obligations.WaitReadsAndStaysUntilSet := by
  rintro s e ⟨hf, ha, hm⟩ hl
  have he : driverEnabled s = true := by simp [driverEnabled, hm, hl, Line.await]
  rw [step_driver hf ha he, driverStep_await hf hl]
  rfl

/-! ## The six edges (R135) -/

/-- An operation leaves the radio's state alone, or is one of the three edges the DRIVER takes. -/
theorem exec_radioState_cases {i : Instr} {s t : State} (h : exec i s = .next t) :
    t.radio.rs = s.radio.rs ∨
      (i = .trigRadioTxen 1 ∧ s.radio.rs = .idle ∧
        t = ({ s with radio := { s.radio with rs := .enabling } }).advance) ∨
      (i = .trigRadioStart 1 ∧ s.radio.rs = .ready ∧ ∃ ptr, s.radio.packetptr = some ptr ∧
        t = ({ s with radio := { s.radio with rs := .transmitting (latchAt s ptr) } }).advance) ∨
      (i = .trigRadioDisable 1 ∧ s.radio.rs = .ended ∧
        t = ({ s with radio := { s.radio with rs := .disabled } }).advance) := by
  cases i with
  | trigRadioTxen data =>
    rcases execTrigRadioTxen_cases _ _ _ h with ⟨m, rfl⟩ | ⟨-, -, rfl⟩ | ⟨hrs, rfl, rfl⟩
    · exact .inl (by simp)
    · exact .inl rfl
    · exact .inr (.inl ⟨rfl, hrs, rfl⟩)
  | trigRadioStart data =>
    rcases execTrigRadioStart_cases _ _ _ h with ⟨m, rfl⟩ | ⟨ptr, hrs, rfl, hp, -, rfl⟩
    · exact .inl (by simp)
    · exact .inr (.inr (.inl ⟨rfl, hrs, ptr, hp, rfl⟩))
  | trigRadioDisable data =>
    rcases execTrigRadioDisable_cases _ _ _ h with ⟨m, rfl⟩ | ⟨hrs, rfl, rfl⟩
    · exact .inl (by simp)
    · exact .inr (.inr (.inr ⟨rfl, hrs, rfl⟩))
  | _ =>
    rcases exec_faultsOrActs h with ⟨m, rfl⟩ | ⟨-, d, rfl⟩
    · exact .inl (by simp)
    · exact .inl rfl

/-- Settles O51: the DRIVER's edges by the operation it issues, the RADIO's by its step; every other turn leaves the radio's
state. -/
theorem radioMovesOnlyByItsEdges : Obligations.RadioMovesOnlyByItsEdges := by
  intro s t h
  obtain ⟨-, ⟨ha, -, u, hu, rfl⟩ | ⟨ha, he, rfl⟩ | ⟨-, -, rfl⟩ | rfl⟩ := step_cases s t h
  · rcases driverStep_local_or_exec hu with ⟨_, _, _, rfl⟩ | ⟨c, i, hl, hd, hx⟩
    · exact .inl rfl
    · rcases exec_radioState_cases hx with hsame | ⟨rfl, hrs, rfl⟩ | ⟨rfl, hrs, ptr, hp, rfl⟩ | ⟨rfl, hrs, rfl⟩
      · exact .inl hsame
      · exact .inr (.inl ⟨⟨ha, c, hl, hd⟩, hrs, rfl⟩)
      · exact .inr (.inr (.inr (.inl ⟨⟨ha, c, hl, hd⟩, hrs, ptr, hp, rfl⟩)))
      · exact .inr (.inr (.inr (.inr (.inr (.inl ⟨⟨ha, c, hl, hd⟩, hrs, rfl⟩)))))
  · rcases radioStep_cases he with ⟨hrs, hx⟩ | ⟨l, hrs, hx⟩ | ⟨hrs, hx⟩ <;> rw [hx]
    · exact .inr (.inr (.inl ⟨ha, hrs, rfl⟩))
    · exact .inr (.inr (.inr (.inr (.inl ⟨ha, l, hrs, rfl⟩))))
    · exact .inr (.inr (.inr (.inr (.inr (.inr ⟨ha, hrs, rfl⟩)))))
  · exact .inl rfl
  · exact .inl rfl

end Sys2Proof.Machine

namespace Sys2Proof.Safety

open Sys2Proof.Machine

/-! ## A wait without its agent's steps -/

/-- An unfaulted state with a running DRIVER at a position. -/
structure RunsAt (q : Seq) (t : State) : Prop where
  noFault : t.fault = none
  running : t.drv.mode = .running
  seq : t.drv.seq = q

/-- The agent whose steps set the flag (R39, R49). -/
def setter : Event → Agent
  | .radioReady => .radio
  | .radioEnd => .radio
  | .timerCompare0 => .timer

/-- The hardware that holds the flag is the same in `t` as in `s`. -/
def SameHardware (e : Event) (s t : State) : Prop :=
  match e with
  | .radioReady => t.radio = s.radio
  | .radioEnd => t.radio = s.radio
  | .timerCompare0 => t.timer = s.timer

section
variable {f : Nat → Agent} {s t u : State} {q : Seq} {e : Event} {b : Agent}

theorem SameHardware.of_eq (hr : t.radio = s.radio) (ht : t.timer = s.timer) : SameHardware e s t := by
  cases e with
  | radioReady | radioEnd => exact hr
  | timerCompare0 => exact ht

theorem SameHardware.trans (h : SameHardware e s t) (h' : SameHardware e t u) : SameHardware e s u := by
  cases e <;> exact Eq.trans h' h

theorem SameHardware.eventFlag (h : SameHardware e s t) : t.eventFlag e = s.eventFlag e := by
  cases e with
  | radioReady => exact congrArg Radio.eventsReady h
  | radioEnd => exact congrArg Radio.eventsEnd h
  | timerCompare0 => exact congrArg Timer.eventsCompare0 h

theorem RunsAt.of_drv (h : RunsAt q t) (hf : u.fault = none) (hd : u.drv = t.drv) : RunsAt q u :=
  ⟨hf, hd ▸ h.running, hd ▸ h.seq⟩

/-- At a `WAIT` whose flag is clear, the turn of an agent that does not set the flag leaves the DRIVER there. -/
theorem RunsAt.stepAs_other (h : RunsAt q t) (hl : ∀ u, u.drv.seq = q → lineAt u = .await e)
    (hclear : t.eventFlag e = false) (hb : b ≠ setter e) :
    ∃ t', stepAs b t = .next t' ∧ RunsAt q t' ∧ SameHardware e t t' := by
  cases b with
  | driver =>
    exact ⟨_, stepAs_await_clear h.noFault h.running (hl _ h.seq) hclear, ⟨h.noFault, h.running, h.seq⟩, .of_eq rfl rfl⟩
  | radio =>
    obtain ⟨t', hx, hd, -, -, -, ht, hf⟩ := stepAs_radio_keeps h.noFault h.running
    cases e with
    | radioReady | radioEnd => exact absurd rfl hb
    | timerCompare0 => exact ⟨t', hx, h.of_drv hf hd, ht⟩
  | timer =>
    obtain ⟨t', hx, hd, hr, -, -, hf, -⟩ := stepAs_timer_keeps h.noFault h.running
    cases e with
    | radioReady | radioEnd => exact ⟨t', hx, h.of_drv hf hd, hr⟩
    | timerCompare0 => exact absurd rfl hb

/-- A `WAIT` lasts as long as the agent that sets its flag has no turn. -/
theorem wait_hangs (hl : ∀ u, u.drv.seq = q → lineAt u = .await e) (h : RunsAt q s) (hclear : s.eventFlag e = false)
    (never : ∀ n, f n ≠ setter e) (n : Nat) : ∃ t, runUnder f s n = .next t ∧ RunsAt q t ∧ SameHardware e s t := by
  refine runUnder_keeps (P := fun t => RunsAt q t ∧ SameHardware e s t) ⟨h, .of_eq rfl rfl⟩ ?_ n
  rintro n t ⟨ht, hs⟩
  obtain ⟨t', hx, ht', hs'⟩ := ht.stepAs_other hl (hs.eventFlag.trans hclear) (never n)
  exact ⟨t', hx, ht', hs.trans hs'⟩

end

/-- Settles O22: the waits of `transmit` without the RADIO's turns, the wait of `delay_ms` without the TIMER's. -/
theorem waitsHangWithoutTheirAgent : Obligations.WaitsHangWithoutTheirAgent := by
  intro f s hf hm
  refine ⟨fun never a hwait n => ?_, fun never d hq hclear n => ?_⟩
  · have hang : ∃ t, runUnder f s n = .next t ∧ RunsAt s.drv.seq t ∧ t.radio = s.radio := by
      rcases hwait with ⟨hq, hclear⟩ | ⟨hq, hclear⟩
      · exact wait_hangs (e := .radioReady) (fun u hu => by simp only [lineAt, hu, hq, transmitLine]) ⟨hf, hm, rfl⟩
          hclear never n
      · exact wait_hangs (e := .radioEnd) (fun u hu => by simp only [lineAt, hu, hq, transmitLine]) ⟨hf, hm, rfl⟩
          hclear never n
    obtain ⟨t, hx, ht, hr⟩ := hang
    exact ⟨t, hx, ht.seq, hr, ht.noFault⟩
  · obtain ⟨t, hx, ht, hr⟩ := wait_hangs (e := .timerCompare0)
      (fun u hu => by simp only [lineAt, hu, hq, delayMsLine]) ⟨hf, hm, rfl⟩ hclear never n
    exact ⟨t, hx, ht.seq, hr, ht.noFault⟩

end Sys2Proof.Safety

namespace Sys2Proof.Machine

/-! ## The lines of `transmit` (R148) -/

/-- `s` taken to a line of `transmit(a)`, with what a call changes besides the turns: `v`, the radio and the air trace. -/
def State.transmitAt (s : State) (a : Word) (line : Nat) (v : Option Word) (r : Radio) (air : List AirFrame) : State :=
  { s with drv := { s.drv with seq := ⟨.transmit a, line, 0⟩, v := v }, radio := r, air := air }

section
variable {s t : State} {a : Word} {n : Nat} {v : Option Word} {r : Radio} {air : List AirFrame} {e : Event}

/-- A state at a line of `transmit` is that line's with its own `v`, radio and air trace. -/
theorem State.eq_transmitAt (hq : s.drv.seq = ⟨.transmit a, n, 0⟩) : s = s.transmitAt a n s.drv.v s.radio s.air := by
  rw [State.transmitAt, ← hq]

/-- A line that issues an operation does what the operation answers. -/
theorem driverStep_of_issue {i : Instr} (hl : lineAt s = .issue i) (he : encodable i = true) (hx : exec i s = .next t) :
    driverStep s = .next t :=
  (driverStep_issue hl (decodeEncodeRoundTrip i he)).trans hx

theorem transmit_entry (hc : s.drv.configured = true) :
    driverStep (s.transmitAt a 0 v r air) = .next (s.transmitAt a 1 v r air) :=
  driverStep_compute (if_pos hc)

theorem transmit_pointer :
    driverStep (s.transmitAt a 1 v r air) = .next (s.transmitAt a 2 v { r with packetptr := some a } air) :=
  driverStep_of_issue rfl rfl rfl

/-- Lines 2 and 6 clear `EVENTS_READY`. -/
theorem transmit_clearReady (hn : n = 2 ∨ n = 6) :
    driverStep (s.transmitAt a n v r air) = .next (s.transmitAt a (n + 1) v { r with eventsReady := false } air) := by
  rcases hn with rfl | rfl <;> exact driverStep_of_issue rfl rfl rfl

theorem transmit_clearEnd :
    driverStep (s.transmitAt a 3 v r air) = .next (s.transmitAt a 4 v { r with eventsEnd := false } air) :=
  driverStep_of_issue rfl rfl rfl

theorem transmit_enable (hrs : r.rs = .idle) :
    driverStep (s.transmitAt a 4 v r air) = .next (s.transmitAt a 5 v { r with rs := .enabling } air) :=
  driverStep_of_issue rfl rfl ((txenByRadioState _).1 hrs)

/-- `TXEN` holds while the radio is `Disabled` (R137). -/
theorem transmit_enable_held (hrs : r.rs = .disabled) :
    driverStep (s.transmitAt a 4 v r air) = .next (s.transmitAt a 4 v r air) :=
  driverStep_of_issue rfl rfl ((txenByRadioState _).2.1 hrs)

theorem transmit_start (hrs : r.rs = .ready) (hp : r.packetptr = some a)
    (hin : packetInRam { s with radio := r } a = true) :
    driverStep (s.transmitAt a 7 v r air) =
      .next (s.transmitAt a 8 v { r with rs := .transmitting (latchAt { s with radio := r } a) } air) :=
  driverStep_of_issue rfl rfl (exec_start_of_packet hrs hp hin)

theorem transmit_disable (hrs : r.rs = .ended) :
    driverStep (s.transmitAt a 9 v r air) = .next (s.transmitAt a 10 v { r with rs := .disabled } air) :=
  driverStep_of_issue rfl rfl ((disableOnlyInEnded _).1 hrs)

theorem transmit_return : driverStep (s.transmitAt a 10 v r air) = .next (s.transmitAt a 10 v r air).ret :=
  driverStep_compute rfl

/-- The `WAIT` of a line goes on where its flag is set. -/
theorem transmit_poll_set (hf : s.fault = none) (hl : lineAt (s.transmitAt a n v r air) = .await e)
    (hs : (s.transmitAt a n v r air).eventFlag e = true) :
    driverStep (s.transmitAt a n v r air) = .next (s.transmitAt a (n + 1) (some 1) r air) := by
  rw [driverStep_await (s := s.transmitAt a n v r air) hf hl, hs]
  rfl

/-- The `WAIT` of a line stays where its flag is clear. -/
theorem transmit_poll_clear (hf : s.fault = none) (hl : lineAt (s.transmitAt a n v r air) = .await e)
    (hs : (s.transmitAt a n v r air).eventFlag e = false) :
    driverStep (s.transmitAt a n v r air) = .next (s.transmitAt a n (some 0) r air) := by
  rw [driverStep_await (s := s.transmitAt a n v r air) hf hl, hs]
  rfl

theorem transmitLine_ne_exit (hn : n ≤ 10) : transmitLine a s n ≠ .exit := by
  interval_cases n <;> rw [transmitLine]
  · split <;> exact nofun
  all_goals exact nofun

/-- The DRIVER has a step at each of the lines 0 to 10. -/
theorem driverEnabled_transmitAt (hm : s.drv.mode = .running) (hn : n ≤ 10) :
    driverEnabled (s.transmitAt a n v r air) = true := by
  rw [driverEnabled, Bool.and_eq_true, decide_eq_true_eq, decide_eq_true_eq]
  exact ⟨hm, transmitLine_ne_exit hn⟩

end

/-- An unfaulted state on the turn of a running TIMER takes its tick. -/
theorem step_timer {s : State} (hf : s.fault = none) (ha : s.nextAgent = .timer) (he : s.timer.running = true) :
    step s = .next (tick s).passTurn := by
  simp only [step, agentTurn, hf, ha, he, if_true]

end Sys2Proof.Machine

namespace Sys2Proof.Safety

open Sys2Proof.Machine

/-! ## The turns of the three agents during `transmit` -/

section
variable {s t : State} {a : Word} {n m : Nat} {v : Option Word} {r r' : Radio} {air air' : List AirFrame} {e : Event}
  {pre rest : List Agent}

/-- The DRIVER's turn is the step of its line. -/
theorem step_transmitAt (hf : s.fault = none) (hm : s.drv.mode = .running) (ha : s.nextAgent = .driver) (hn : n ≤ 10)
    (hx : driverStep (s.transmitAt a n v r air) = .next t) : step (s.transmitAt a n v r air) = .next t.passTurn := by
  rw [step_driver (s := s.transmitAt a n v r air) hf ha (driverEnabled_transmitAt hm hn), hx]
  rfl

/-- The TIMER's turn, with or without a tick, leaves the call alone. -/
theorem step_transmitAt_timer (hf : s.fault = none) (hm : s.drv.mode = .running) (ha : s.nextAgent = .timer) :
    ∃ tm, step (s.transmitAt a n v r air) = .next (({ s with timer := tm } : State).passTurn.transmitAt a n v r air) := by
  cases ht : s.timer.running with
  | true => exact ⟨(tick s).timer, step_timer (s := s.transmitAt a n v r air) hf ha ht⟩
  | false =>
    exact ⟨s.timer, step_idle (s := s.transmitAt a n v r air) hf hm ((congrArg (enabled _) ha).trans ht)⟩

/-- The DRIVER's step stays at the line, whatever it does to `v`: a wait, or `TXEN` held. -/
def DriverHolds (a : Word) (n : Nat) (r : Radio) (air : List AirFrame) : Prop :=
  ∀ (u : State) v, u.fault = none → ∃ v', driverStep (u.transmitAt a n v r air) = .next (u.transmitAt a n v' r air)

theorem driverHolds_enable (hrs : r.rs = .disabled) : DriverHolds a 4 r air :=
  fun _ v _ => ⟨v, transmit_enable_held hrs⟩

theorem driverHolds_ready (hclear : r.eventsReady = false) : DriverHolds a 5 r air :=
  fun _ _ hf => ⟨some 0, transmit_poll_clear (e := .radioReady) hf rfl hclear⟩

theorem driverHolds_end (hclear : r.eventsEnd = false) : DriverHolds a 8 r air :=
  fun _ _ hf => ⟨some 0, transmit_poll_clear (e := .radioEnd) hf rfl hclear⟩

/-- The RADIO's turn takes the radio and the air trace to `r'` and `air'`. -/
def RadioTurn (r : Radio) (air : List AirFrame) (r' : Radio) (air' : List AirFrame) : Prop :=
  ∀ (u : State) a n v, u.fault = none → u.nextAgent = .radio →
    step (u.transmitAt a n v r air) = .next (u.passTurn.transmitAt a n v r' air')

theorem radioTurn_rampUp (hrs : r.rs = .enabling) : RadioTurn r air { r with eventsReady := true, rs := .ready } air :=
  fun u a n v hf ha => (radioAgentSteps (u.transmitAt a n v r air) hf ha).1 hrs

theorem radioTurn_sent {l : Latch} (hrs : r.rs = .transmitting l) :
    RadioTurn r air { r with eventsEnd := true, rs := .ended } (air ++ [r.airFrame l.bytes]) :=
  fun u a n v hf ha => (radioAgentSteps (u.transmitAt a n v r air) hf ha).2.1 l hrs

theorem radioTurn_idled (hrs : r.rs = .disabled) : RadioTurn r air { r with rs := .idle } air :=
  fun u a n v hf ha => (radioAgentSteps (u.transmitAt a n v r air) hf ha).2.2 hrs

/-! ## The waits of `transmit` under fixed turns (R151) -/

/-- Turns of the DRIVER and the TIMER leave a held DRIVER at its line. -/
theorem run_held (hn : n ≤ 10) (hold : DriverHolds a n r air) (hpre : Agent.radio ∉ pre) (hf : s.fault = none)
    (hm : s.drv.mode = .running) (hts : s.turns = pre ++ rest) :
    ∃ (u : State) (v' : Option Word), u.fault = none ∧ u.drv.mode = .running ∧ u.turns = rest ∧
      Claims.runSteps (m + pre.length) (s.transmitAt a n v r air) = Claims.runSteps m (u.transmitAt a n v' r air) := by
  induction pre generalizing s v with
  | nil => exact ⟨s, v, hf, hm, hts, rfl⟩
  | cons b pre ih =>
    obtain ⟨hb, hpre⟩ := not_or.mp (mt List.mem_cons.mpr hpre)
    have ha : s.nextAgent = b := by rw [State.nextAgent, hts]; rfl
    have htail : s.passTurn.turns = pre ++ rest := by rw [State.passTurn_turns, hts]; rfl
    have first : ∃ (s' : State) (v' : Option Word), s'.fault = none ∧ s'.drv.mode = .running ∧ s'.turns = pre ++ rest ∧
        step (s.transmitAt a n v r air) = .next (s'.transmitAt a n v' r air) := by
      cases b with
      | driver =>
        obtain ⟨v', hx⟩ := hold s v hf
        exact ⟨s.passTurn, v', hf, hm, htail, step_transmitAt hf hm ha hn hx⟩
      | timer =>
        obtain ⟨tm, hx⟩ := step_transmitAt_timer hf hm ha
        exact ⟨({ s with timer := tm } : State).passTurn, v, hf, hm, htail, hx⟩
      | radio => exact absurd rfl hb
    obtain ⟨s', v', hf', hm', hts', hx⟩ := first
    obtain ⟨u, w, hu, hmu, htu, hrun⟩ := ih hpre hf' hm' hts'
    exact ⟨u, w, hu, hmu, htu, (run_of_next _ hx).trans hrun⟩

/-- A held DRIVER goes on with its first turn after the RADIO's, where that lets it go on. -/
theorem run_held_ends (hn : n ≤ 10) (hold : DriverHolds a n r air) (turn : RadioTurn r air r' air')
    (goes : ∀ (u : State) v, u.fault = none →
      driverStep (u.transmitAt a n v r' air') = .next (u.transmitAt a (n + 1) (some 1) r' air'))
    (hpre : Agent.radio ∉ pre) (hf : s.fault = none) (hm : s.drv.mode = .running)
    (hts : s.turns = pre ++ [Agent.radio, Agent.driver] ++ rest) :
    ∃ u : State, u.fault = none ∧
      Claims.runSteps (pre.length + 2) (s.transmitAt a n v r air) = .next (u.transmitAt a (n + 1) (some 1) r' air') := by
  rw [List.append_assoc] at hts
  obtain ⟨u, w, hu, hmu, htu, hrun⟩ := run_held (m := 2) (v := v) hn hold hpre hf hm hts
  have hradio : u.nextAgent = .radio := by rw [State.nextAgent, htu]; rfl
  have hdriver : u.passTurn.nextAgent = .driver := by rw [State.nextAgent, State.passTurn_turns, htu]; rfl
  have last : step (u.passTurn.transmitAt a n w r' air') =
      .next (u.passTurn.passTurn.transmitAt a (n + 1) (some 1) r' air') :=
    step_transmitAt (s := u.passTurn) hu hmu hdriver hn (goes u.passTurn w hu)
  refine ⟨u.passTurn.passTurn, hu, ?_⟩
  rw [Nat.add_comm, hrun]
  exact (run_of_next 1 (turn u a n w hu hradio)).trans (run_of_next 0 last)

end

/-- Settles O20: the wait of each line holds the DRIVER until the RADIO's step sets the flag. -/
theorem waitsEndOnceTheRadioSteps : Obligations.WaitsEndOnceTheRadioSteps := by
  intro s a pre rest hf hm hpre hts
  refine ⟨fun hq hrs hclear => ?_, fun l hq hrs hclear => ?_⟩
  · obtain ⟨u, hu, hrun⟩ := run_held_ends (a := a) (v := s.drv.v) (air := s.air) (by decide) (driverHolds_ready hclear)
      (radioTurn_rampUp hrs) (fun _ _ hf => transmit_poll_set (e := .radioReady) hf rfl rfl) hpre hf hm hts
    rw [← State.eq_transmitAt hq] at hrun
    exact ⟨_, hrun, rfl, rfl, rfl, hu⟩
  · obtain ⟨u, hu, hrun⟩ := run_held_ends (a := a) (v := s.drv.v) (air := s.air) (by decide) (driverHolds_end hclear)
      (radioTurn_sent hrs) (fun _ _ hf => transmit_poll_set (e := .radioEnd) hf rfl rfl) hpre hf hm hts
    rw [← State.eq_transmitAt hq] at hrun
    exact ⟨_, hrun, rfl, rfl, rfl, hu⟩

/-! ## A whole call of `transmit` under fixed turns (R150) -/

/-- `s` with the turns to come, after `k` steps. -/
def withTurns (s : State) (ts : List Agent) (k : Nat) : State := { s with turns := ts, clock := s.clock + k }

section
variable {s : State} {a : Word} {n n' k m : Nat} {v v' : Option Word} {r r' : Radio} {air air' : List AirFrame}
  {ts : List Agent}

/-- A run goes on after a line of the call. -/
theorem run_line (hf : s.fault = none) (hm : s.drv.mode = .running) (hn : n ≤ 10)
    (hx : driverStep ((withTurns s (.driver :: ts) k).transmitAt a n v r air) =
      .next ((withTurns s (.driver :: ts) k).transmitAt a n' v' r' air)) :
    Claims.runSteps (m + 1) ((withTurns s (.driver :: ts) k).transmitAt a n v r air) =
      Claims.runSteps m ((withTurns s ts (k + 1)).transmitAt a n' v' r' air) :=
  run_of_next m (step_transmitAt (s := withTurns s (.driver :: ts) k) hf hm rfl hn hx)

/-- A run goes on after a step of the RADIO. -/
theorem run_radio (hf : s.fault = none) (turn : RadioTurn r air r' air') :
    Claims.runSteps (m + 1) ((withTurns s (.radio :: ts) k).transmitAt a n v r air) =
      Claims.runSteps m ((withTurns s ts (k + 1)).transmitAt a n v r' air') :=
  run_of_next m (turn (withTurns s (.radio :: ts) k) a n v hf rfl)

end

/-- Settles O19: the eleven lines of `transmit`, with the RADIO's steps at the two waits. -/
theorem transmitSendsOneFrame : Obligations.TransmitSendsOneFrame := by
  intro s a caller callers rest hf hm hq hcallers hc hrs hin hts
  have start : s = (withTurns s (.driver :: .driver :: .driver :: .driver :: .driver :: .radio :: .driver :: .driver ::
      .driver :: .radio :: .driver :: .driver :: .driver :: rest) 0).transmitAt a 0 s.drv.v s.radio s.air := by
    rw [State.transmitAt, withTurns, ← hq]
    exact congrArg (fun ts => { s with turns := ts }) hts
  have last (r : Radio) (air : List AirFrame) :
      step ((withTurns s (.driver :: rest) 12).transmitAt a 10 (some 1) r air) = .next { s with
        drv := { s.drv with v := some 1, seq := caller, callers := callers }
        radio := r, air := air, turns := rest, clock := s.clock + 13 } := by
    rw [step_transmitAt (s := withTurns s (.driver :: rest) 12) hf hm rfl (by decide) transmit_return]
    simp [State.ret, State.transmitAt, withTurns, State.passTurn, hcallers]
  refine Eq.trans (congrArg (Claims.runSteps 13) start) ?_
  refine Eq.trans (run_line hf hm (by decide) (transmit_entry hc)) ?_
  refine Eq.trans (run_line hf hm (by decide) transmit_pointer) ?_
  refine Eq.trans (run_line hf hm (by decide) (transmit_clearReady (.inl rfl))) ?_
  refine Eq.trans (run_line hf hm (by decide) transmit_clearEnd) ?_
  refine Eq.trans (run_line hf hm (by decide) (transmit_enable hrs)) ?_
  refine Eq.trans (run_radio hf (radioTurn_rampUp rfl)) ?_
  refine Eq.trans (run_line hf hm (by decide) (transmit_poll_set (e := .radioReady) hf rfl rfl)) ?_
  refine Eq.trans (run_line hf hm (by decide) (transmit_clearReady (.inr rfl))) ?_
  refine Eq.trans (run_line hf hm (by decide) (transmit_start rfl rfl hin)) ?_
  refine Eq.trans (run_radio hf (radioTurn_sent rfl)) ?_
  refine Eq.trans (run_line hf hm (by decide) (transmit_poll_set (e := .radioEnd) hf rfl rfl)) ?_
  refine Eq.trans (run_line hf hm (by decide) (transmit_disable rfl)) ?_
  exact run_of_next 0 (last _ _)

end Sys2Proof.Safety

namespace Sys2Proof.Safety

open Sys2Proof.Machine

/-! ## A whole call of `transmit` under weak fairness (R150, R151) -/

/-- `u` differs from `s` at most in what goes on beside a call of `transmit`: the timer and the turns. -/
def Beside (s u : State) : Prop := ∃ tm ts c, u = { s with timer := tm, turns := ts, clock := c }

/-- `t` is at a line of `transmit(a)` called from `s`, with a radio of which `R` holds and the air trace `air`. -/
def CallAt (s : State) (a : Word) (n : Nat) (R : Radio → Prop) (air : List AirFrame) (t : State) : Prop :=
  ∃ u v r, Beside s u ∧ R r ∧ t = u.transmitAt a n v r air

/-- The run from `s` under the schedule comes to a state of which `Q` holds. -/
def Reaches (f : Nat → Agent) (s : State) (Q : State → Prop) : Prop := ∃ n t, runUnder f s n = .next t ∧ Q t

/-- The RADIO's turn keeps `R` and the air trace: it has no step, or only `DisableDone`. -/
def Quiet (R : Radio → Prop) : Prop :=
  ∀ r, R r → r.rs = .idle ∨ r.rs = .ready ∨ r.rs = .ended ∨ (r.rs = .disabled ∧ R { r with rs := .idle })

/-- The radio between two transmissions: `Idle`, or still `Disabled`, with the registers of `r`. -/
def Resting (r r' : Radio) : Prop := ∃ rs, (rs = .idle ∨ rs = .disabled) ∧ r' = { r with rs := rs }

theorem quiet_resting (r : Radio) : Quiet (Resting r) := by
  rintro _ ⟨rs, rfl | rfl, rfl⟩
  · exact .inl rfl
  · exact .inr (.inr (.inr ⟨rfl, .idle, .inl rfl, rfl⟩))

theorem quiet_eq {r : Radio} (h : r.rs = .idle ∨ r.rs = .ready ∨ r.rs = .ended) : Quiet (· = r) := by
  rintro _ rfl
  rcases h with h | h | h
  · exact .inl h
  · exact .inr (.inl h)
  · exact .inr (.inr (.inl h))

section
variable {f : Nat → Agent} {s u t : State} {a : Word} {n n' : Nat} {v : Option Word} {r r' : Radio}
  {R R' : Radio → Prop} {air air' : List AirFrame} {Q : State → Prop}

theorem Beside.refl (s : State) : Beside s s := ⟨s.timer, s.turns, s.clock, rfl⟩

theorem Beside.onTurn (h : Beside s u) (b : Agent) : Beside s { u with turns := [b] } := by
  obtain ⟨tm, _, c, rfl⟩ := h
  exact ⟨tm, [b], c, rfl⟩

theorem Beside.passTurn (h : Beside s u) : Beside s u.passTurn := by
  obtain ⟨tm, ts, c, rfl⟩ := h
  exact ⟨tm, ts.tail, c + 1, rfl⟩

theorem Beside.withTimer (h : Beside s u) (tm : Timer) : Beside s { u with timer := tm } := by
  obtain ⟨_, ts, c, rfl⟩ := h
  exact ⟨tm, ts, c, rfl⟩

theorem Beside.drv (h : Beside s u) : u.drv = s.drv := by
  obtain ⟨_, _, _, rfl⟩ := h
  rfl

theorem Beside.ram (h : Beside s u) : u.ram = s.ram := by
  obtain ⟨_, _, _, rfl⟩ := h
  rfl

theorem Beside.noFault (h : Beside s u) (hf : s.fault = none) : u.fault = none := by
  obtain ⟨_, _, _, rfl⟩ := h
  exact hf

theorem Beside.running (h : Beside s u) (hm : s.drv.mode = .running) : u.drv.mode = .running := h.drv ▸ hm

theorem CallAt.passTurn (hu : Beside s u) (hr : R r) : CallAt s a n R air (u.transmitAt a n v r air).passTurn :=
  ⟨u.passTurn, v, r, hu.passTurn, hr, rfl⟩

/-- The TIMER's turn keeps the call where it is. -/
theorem CallAt.stepAs_timer (hf : s.fault = none) (hm : s.drv.mode = .running) (hu : Beside s u) (hr : R r) :
    ∃ t, stepAs .timer (u.transmitAt a n v r air) = .next t ∧ CallAt s a n R air t := by
  have hu' := hu.onTurn .timer
  obtain ⟨tm, hx⟩ := step_transmitAt_timer (hu'.noFault hf) (hu'.running hm) rfl
  exact ⟨_, hx, _, v, r, (hu'.withTimer tm).passTurn, hr, rfl⟩

/-- The RADIO's turn keeps a call with a quiet radio where it is. -/
theorem CallAt.stepAs_radio (hf : s.fault = none) (hm : s.drv.mode = .running) (quiet : Quiet R) (hu : Beside s u)
    (hr : R r) : ∃ t, stepAs .radio (u.transmitAt a n v r air) = .next t ∧ CallAt s a n R air t := by
  have hu' := hu.onTurn .radio
  have idle (he : radioEnabled (u.transmitAt a n v r air) = false) :
      ∃ t, stepAs .radio (u.transmitAt a n v r air) = .next t ∧ CallAt s a n R air t :=
    ⟨_, step_idle (s := ({ u with turns := [.radio] } : State).transmitAt a n v r air) (hu'.noFault hf) (hu'.running hm) he,
      .passTurn hu' hr⟩
  rcases quiet r hr with hrs | hrs | hrs | ⟨hrs, hr'⟩
  iterate 3 exact idle (by simp only [radioEnabled, State.transmitAt, hrs])
  exact ⟨_, radioTurn_idled hrs _ a n v (hu'.noFault hf) rfl, _, v, _, hu'.passTurn, hr', rfl⟩

/-- Weak fairness to `b`: where the other agents keep `P` and `b` has a step that brings `Q`, the run goes from `P` to `Q`. -/
theorem Reaches.leads {P Q : State → Prop} {b : Agent} (start : Reaches f s P) (live : WeaklyFair f s b)
    (able : ∀ t, P t → enabled t b = true) (own : ∀ t, P t → ∃ t', stepAs b t = .next t' ∧ Q t')
    (others : ∀ t c, P t → c ≠ b → ∃ t', stepAs c t = .next t' ∧ P t') : Reaches f s Q := by
  have keep (t : State) (c : Agent) (hp : P t) : ∃ t', stepAs c t = .next t' ∧ (P t' ∨ Q t') := by
    by_cases hc : c = b
    · obtain ⟨t', hx, hq⟩ := own t hp
      exact ⟨t', hc ▸ hx, .inr hq⟩
    · obtain ⟨t', hx, hp'⟩ := others t c hp hc
      exact ⟨t', hx, .inl hp'⟩
  have help (t t' : State) (hp : P t) (hx : stepAs b t = .next t') : Q t' := by
    obtain ⟨_, hx', hq⟩ := own t hp
    cases hx'.symm.trans hx
    exact hq
  obtain ⟨n, t, ht, hp⟩ := start
  obtain ⟨m, t', -, hrun, hq⟩ := leads_to P Q live ht hp keep able help
  exact ⟨m, t', hrun, hq⟩

/-- Under a fair DRIVER, a line that the RADIO leaves alone is followed by what the DRIVER's step there leads to. -/
theorem Reaches.line (start : Reaches f s (CallAt s a n R air)) (live : DriverLive f s) (hf : s.fault = none)
    (hm : s.drv.mode = .running) (hn : n ≤ 10) (quiet : Quiet R)
    (move : ∀ u v r, Beside s u → R r → ∃ t, driverStep (u.transmitAt a n v r air) = .next t ∧ Q t.passTurn) :
    Reaches f s Q := by
  refine start.leads live ?able ?own ?others
  case able =>
    rintro _ ⟨u, v, r, hu, -, rfl⟩
    exact driverEnabled_transmitAt (hu.running hm) hn
  case own =>
    rintro _ ⟨u, v, r, hu, hr, rfl⟩
    have hu' := hu.onTurn .driver
    obtain ⟨t, hx, hq⟩ := move _ v r hu' hr
    exact ⟨_, step_transmitAt (hu'.noFault hf) (hu'.running hm) rfl hn hx, hq⟩
  case others =>
    rintro _ b ⟨u, v, r, hu, hr, rfl⟩ hb
    cases b with
    | driver => exact absurd rfl hb
    | radio => exact CallAt.stepAs_radio hf hm quiet hu hr
    | timer => exact CallAt.stepAs_timer hf hm hu hr

/-- Under a fair RADIO, a line that holds the DRIVER lasts until the RADIO's step. -/
theorem Reaches.turn (start : Reaches f s (CallAt s a n (· = r) air)) (live : HardwareLive f s) (hf : s.fault = none)
    (hm : s.drv.mode = .running) (hn : n ≤ 10) (hold : DriverHolds a n r air)
    (he : ∀ u v, radioEnabled (State.transmitAt u a n v r air) = true) (turn : RadioTurn r air r' air') :
    Reaches f s (CallAt s a n (· = r') air') := by
  refine start.leads live.1 ?able ?own ?others
  case able =>
    rintro _ ⟨u, v, _, -, rfl, rfl⟩
    exact he u v
  case own =>
    rintro _ ⟨u, v, _, hu, rfl, rfl⟩
    have hu' := hu.onTurn .radio
    exact ⟨_, turn _ a n v (hu'.noFault hf) rfl, .passTurn hu' rfl⟩
  case others =>
    rintro _ b ⟨u, v, _, hu, rfl, rfl⟩ hb
    cases b with
    | driver =>
      have hu' := hu.onTurn .driver
      obtain ⟨v', hx⟩ := hold _ v (hu'.noFault hf)
      exact ⟨_, step_transmitAt (hu'.noFault hf) (hu'.running hm) rfl hn hx, .passTurn hu' rfl⟩
    | radio => exact absurd rfl hb
    | timer => exact CallAt.stepAs_timer hf hm hu rfl

/-- The radio inside a call of `transmit(a)` from line 4 on: the pointer, the two flags, the state. -/
def sending (r : Radio) (a : Word) (ready ended : Bool) (rs : RadioState) : Radio :=
  { r with packetptr := some a, eventsReady := ready, eventsEnd := ended, rs := rs }

/-- What `START` latches in a call from `s` (R139, R148). -/
def packetOf (s : State) (a : Word) : List Byte :=
  Memory.readBytes s.ram a.toNat (2 + min (Memory.read s.ram (a.toNat + 1)).toNat (field s.radio.pcnf1 0 8))

/-- Beside the call the packet stays as it is, whatever the call does to the radio. -/
theorem Beside.packet (h : Beside s u) {ready ended : Bool} {rs : RadioState} :
    packetInRam { u with radio := sending s.radio a ready ended rs } a = packetInRam s a ∧
      latchAt { u with radio := sending s.radio a ready ended rs } a = ⟨a, packetOf s a⟩ := by
  obtain ⟨_, _, _, rfl⟩ := h
  exact ⟨rfl, rfl⟩

variable (hf : s.fault = none) (hm : s.drv.mode = .running) (live : DriverLive f s) (hw : HardwareLive f s)
include hf hm live

/-- Lines 0 to 3: the pointer is written and the flags are cleared, while the radio rests. -/
theorem reaches_txen (hc : s.drv.configured = true) (start : Reaches f s (CallAt s a 0 (Resting s.radio) s.air)) :
    Reaches f s (CallAt s a 4
      (Resting { s.radio with packetptr := some a, eventsReady := false, eventsEnd := false }) s.air) := by
  have line1 : Reaches f s (CallAt s a 1 (Resting s.radio) s.air) :=
    start.line live hf hm (by decide) (quiet_resting _) fun _ _ _ hu hr =>
      ⟨_, transmit_entry (hu.drv ▸ hc), .passTurn hu hr⟩
  have line2 : Reaches f s (CallAt s a 2 (Resting { s.radio with packetptr := some a }) s.air) :=
    line1.line live hf hm (by decide) (quiet_resting _) fun _ _ _ hu ⟨rs, hrs, hr⟩ =>
      ⟨_, transmit_pointer, .passTurn hu ⟨rs, hrs, by rw [hr]⟩⟩
  have line3 : Reaches f s (CallAt s a 3 (Resting { s.radio with packetptr := some a, eventsReady := false }) s.air) :=
    line2.line live hf hm (by decide) (quiet_resting _) fun _ _ _ hu ⟨rs, hrs, hr⟩ =>
      ⟨_, transmit_clearReady (.inl rfl), .passTurn hu ⟨rs, hrs, by rw [hr]⟩⟩
  exact line3.line live hf hm (by decide) (quiet_resting _) fun _ _ _ hu ⟨rs, hrs, hr⟩ =>
    ⟨_, transmit_clearEnd, .passTurn hu ⟨rs, hrs, by rw [hr]⟩⟩

include hw

/-- Line 4: `TXEN` is held until the radio is `Idle`, and then starts it. -/
theorem reaches_enabling (start : Reaches f s (CallAt s a 4
    (Resting { s.radio with packetptr := some a, eventsReady := false, eventsEnd := false }) s.air)) :
    Reaches f s (CallAt s a 5 (· = sending s.radio a false false .enabling) s.air) := by
  have idle : Reaches f s (CallAt s a 4 (· = sending s.radio a false false .idle) s.air) := by
    obtain ⟨k, _, ht, u, v, _, hu, ⟨rs, rfl | rfl, rfl⟩, rfl⟩ := start
    · exact ⟨k, _, ht, u, v, _, hu, rfl, rfl⟩
    · have held : Reaches f s (CallAt s a 4 (· = sending s.radio a false false .disabled) s.air) :=
        ⟨k, _, ht, u, v, _, hu, rfl, rfl⟩
      exact held.turn hw hf hm (by decide) (driverHolds_enable rfl) (fun _ _ => rfl) (radioTurn_idled rfl)
  refine idle.line live hf hm (by decide) (quiet_eq (.inl rfl)) ?_
  rintro u v _ hu rfl
  exact ⟨_, transmit_enable rfl, .passTurn hu rfl⟩

/-- Lines 5 to 7: the wait ends with `RampUpDone`, and `START` latches the packet. -/
theorem reaches_transmitting (hin : packetInRam s a = true)
    (start : Reaches f s (CallAt s a 5 (· = sending s.radio a false false .enabling) s.air)) :
    Reaches f s (CallAt s a 8 (· = sending s.radio a false false (.transmitting ⟨a, packetOf s a⟩)) s.air) := by
  have rampedUp : Reaches f s (CallAt s a 5 (· = sending s.radio a true false .ready) s.air) :=
    start.turn hw hf hm (by decide) (driverHolds_ready rfl) (fun _ _ => rfl) (radioTurn_rampUp rfl)
  have line6 : Reaches f s (CallAt s a 6 (· = sending s.radio a true false .ready) s.air) := by
    refine rampedUp.line live hf hm (by decide) (quiet_eq (.inr (.inl rfl))) ?_
    rintro u v _ hu rfl
    exact ⟨_, transmit_poll_set (e := .radioReady) (hu.noFault hf) rfl rfl, .passTurn hu rfl⟩
  have line7 : Reaches f s (CallAt s a 7 (· = sending s.radio a false false .ready) s.air) := by
    refine line6.line live hf hm (by decide) (quiet_eq (.inr (.inl rfl))) ?_
    rintro u v _ hu rfl
    exact ⟨_, transmit_clearReady (.inr rfl), .passTurn hu rfl⟩
  refine line7.line live hf hm (by decide) (quiet_eq (.inr (.inl rfl))) ?_
  rintro u v _ hu rfl
  obtain ⟨hpacket, hlatch⟩ := hu.packet (a := a) (ready := false) (ended := false) (rs := .ready)
  refine ⟨_, transmit_start rfl rfl (hpacket.trans hin), .passTurn hu ?_⟩
  rw [hlatch]
  rfl

/-- Lines 8 and 9: the wait ends with `TxDone`, and `DISABLE` lets the radio rest. -/
theorem reaches_sent
    (start : Reaches f s (CallAt s a 8 (· = sending s.radio a false false (.transmitting ⟨a, packetOf s a⟩)) s.air)) :
    Reaches f s (CallAt s a 10 (Resting (sending s.radio a false true .idle))
      (s.air ++ [s.radio.airFrame (packetOf s a)])) := by
  have ended : Reaches f s (CallAt s a 8 (· = sending s.radio a false true .ended)
      (s.air ++ [s.radio.airFrame (packetOf s a)])) :=
    start.turn hw hf hm (by decide) (driverHolds_end rfl) (fun _ _ => rfl) (radioTurn_sent (l := ⟨a, packetOf s a⟩) rfl)
  have line9 : Reaches f s (CallAt s a 9 (· = sending s.radio a false true .ended)
      (s.air ++ [s.radio.airFrame (packetOf s a)])) := by
    refine ended.line live hf hm (by decide) (quiet_eq (.inr (.inr rfl))) ?_
    rintro u v _ hu rfl
    exact ⟨_, transmit_poll_set (e := .radioEnd) (hu.noFault hf) rfl rfl, .passTurn hu rfl⟩
  refine line9.line live hf hm (by decide) (quiet_eq (.inr (.inr rfl))) ?_
  rintro u v _ hu rfl
  exact ⟨_, transmit_disable rfl, .passTurn hu ⟨.disabled, .inr rfl, rfl⟩⟩

end

/-- Settles O21: lines 0 to 9 by the four stages, then the return. -/
theorem transmitReturnsUnderFairness : Obligations.TransmitReturnsUnderFairness := by
  intro f s a caller callers hf hm hq hcallers hc hrest hin hw live
  have start : Reaches f s (CallAt s a 0 (Resting s.radio) s.air) :=
    ⟨0, s, rfl, s, s.drv.v, s.radio, .refl s, ⟨s.radio.rs, hrest, rfl⟩, State.eq_transmitAt hq⟩
  have txen := reaches_txen hf hm live hc start
  have transmitting := reaches_transmitting hf hm live hw hin (reaches_enabling hf hm live hw txen)
  refine (reaches_sent hf hm live hw transmitting).line live hf hm (by decide) (quiet_resting _) ?_
  rintro u v _ hu ⟨rs, hrs, rfl⟩
  refine ⟨_, transmit_return, ?_⟩
  obtain ⟨hseq, hback⟩ := State.ret_to_caller (u.transmitAt a 10 v (sending s.radio a false true rs)
    (s.air ++ [s.radio.airFrame (packetOf s a)])) caller callers ((congrArg Driver.callers hu.drv).trans hcallers)
  simp only [State.passTurn_fault, State.ret_fault, State.passTurn_drv, State.passTurn_radio, State.ret_radio,
    State.passTurn_ram, State.ret_ram, State.passTurn_air, State.ret_air]
  exact ⟨hu.noFault hf, hseq, hback, rfl, rfl, rfl, hrs.symm, hu.ram, rfl⟩

end Sys2Proof.Safety

/-!
PROOFS. On-air framing (42_radio_packet.md): whitening as an XOR with a keystream, the two forms of the CRC register and its residue,
the parts of a frame and their lengths, and the frame of a configured radio.
-/

namespace Sys2Proof.Machine

/-! ## Whitening (R174, R175) -/

/-- The keystream depends on the register alone, so whitening twice from one register value cancels. -/
@[simp] theorem whitenFrom_whitenFrom (s : BitVec 8) (xs : List Bool) : whitenFrom s (whitenFrom s xs) = xs := by
  induction xs generalizing s with
  | nil => rfl
  | cons x xs ih => simp [whitenFrom, ih]

/-- Settles O24: whitening is its own inverse from every register value. -/
theorem whiteningIsItsOwnInverse : Obligations.WhiteningIsItsOwnInverse :=
  fun _ xs => whitenFrom_whitenFrom _ xs

@[simp] theorem length_whitenFrom (s : BitVec 8) (xs : List Bool) : (whitenFrom s xs).length = xs.length := by
  induction xs generalizing s with
  | nil => rfl
  | cons x xs ih => simp [whitenFrom, ih]

/-! ## The two forms of the CRC register (R172) -/

/-- The right shift of the reversed register is the left shift of the register, and both forms test the same bit. -/
theorem crcReflectedStep_reverse (poly c : BitVec 24) (d : Bool) :
    crcReflectedStep poly.reverse c.reverse d = (crcStep poly c d).reverse := by
  have top : c.reverse.getLsbD 0 = c.getLsbD 23 := by rw [BitVec.getLsbD_reverse]; rfl
  have shift : c.reverse >>> 1 = (c <<< 1).reverse := by
    ext k hk
    simp [BitVec.getElem_reverse, BitVec.getLsbD_reverse, Nat.add_comm]
  have xor_reverse : (c <<< 1).reverse ^^^ poly.reverse = (c <<< 1 ^^^ poly).reverse := by
    ext k hk
    simp [BitVec.getElem_reverse]
  rw [crcReflectedStep, crcStep, top, shift, xor_reverse, apply_ite BitVec.reverse]

theorem crc24Reflected_eq_reverse (ds : List Bool) : crc24Reflected ds = (crc24 0x00065B 0x555555 ds).reverse := by
  have poly : (0xDA6000 : BitVec 24) = (0x00065B : BitVec 24).reverse := by decide
  have initial : (0xAAAAAA : BitVec 24) = (0x555555 : BitVec 24).reverse := by decide
  rw [crc24Reflected, crc24, poly, initial]
  exact List.foldl_hom BitVec.reverse (crcReflectedStep_reverse _)

/-- Settles O23: the reflected register is the register reversed. -/
theorem crcFormsAgree : Obligations.CrcFormsAgree := by
  intro ds k hk
  rw [crc24Reflected_eq_reverse, BitVec.getLsbD_reverse, BitVec.getMsbD_eq_getLsbD]
  simp [hk]

/-! ## The residue (R179) -/

theorem crc24_append (poly initial : BitVec 24) (xs ys : List Bool) :
    crc24 poly initial (xs ++ ys) = crc24 poly (crc24 poly initial xs) ys :=
  List.foldl_append

/-- A bit equal to the register's top bit gives no feedback. -/
theorem crcStep_top (poly c : BitVec 24) : crcStep poly c (c.getLsbD 23) = c <<< 1 := by
  simp [crcStep]

/-- After `n` of its own bits, most significant first, the register is shifted by `n`. -/
theorem crc24_ownBits (poly c : BitVec 24) {n : Nat} (hn : n ≤ 24) :
    crc24 poly c ((List.range n).map (fun k => c.getLsbD (23 - k))) = c <<< n := by
  induction n with
  | zero => simp [crc24]
  | succ n ih =>
    have next : c.getLsbD (23 - n) = (c <<< n).getLsbD 23 := by
      rw [BitVec.getLsbD_shiftLeft, decide_eq_false (by omega : ¬ 23 < n)]
      rfl
    rw [List.range_succ, List.map_append, crc24_append, ih (by omega), BitVec.shiftLeft_add]
    exact (congrArg (crcStep poly (c <<< n)) next).trans (crcStep_top poly _)

/-- Appending its CRC to a bit list takes the register to 0. -/
theorem crc24_append_crcBits (poly initial : BitVec 24) (ds : List Bool) :
    crc24 poly initial (ds ++ crcBits (crc24 poly initial ds)) = 0 := by
  calc crc24 poly initial (ds ++ crcBits (crc24 poly initial ds))
      = crc24 poly (crc24 poly initial ds) (crcBits (crc24 poly initial ds)) := crc24_append ..
    _ = crc24 poly initial ds <<< 24 := crc24_ownBits poly _ le_rfl
    _ = 0 := BitVec.shiftLeft_eq_zero le_rfl

/-! ## The parts of a frame (R165, R177) -/

@[simp] theorem length_byteBits (b : Byte) : (byteBits b).length = 8 := rfl

@[simp] theorem length_bitsOf (bytes : List Byte) : (bitsOf bytes).length = 8 * bytes.length := by
  simp [bitsOf, List.length_flatMap, Nat.mul_comm]

@[simp] theorem length_crcBits (c : BitVec 24) : (crcBits c).length = 24 := by simp [crcBits]

@[simp] theorem length_addressBytes (aa : Word) : (addressBytes aa).length = 4 := rfl

@[simp] theorem length_frameBody (poly initial : BitVec 24) (iv : BitVec 6) (latch : List Byte) :
    (frameBody poly initial iv latch).length = 8 * latch.length + 24 := by
  simp [frameBody, whiten]

theorem length_frameBits (aa : Word) (poly initial : BitVec 24) (iv : BitVec 6) (latch : List Byte) :
    (frameBits aa poly initial iv latch).length = 8 * (1 + 4 + latch.length + 3) := by
  simp [frameBits]
  omega

/-- What follows the preamble and the access address is the whitened part. -/
theorem drop_frameBits (aa : Word) (poly initial : BitVec 24) (iv : BitVec 6) (latch : List Byte) :
    (frameBits aa poly initial iv latch).drop 40 = frameBody poly initial iv latch :=
  List.drop_left' (by simp)

/-- Settles O26: one preamble byte, four address bytes, the latch, three CRC bytes. -/
theorem frameLengthInBits : Obligations.FrameLengthInBits := by
  intro latch L hlatch
  simp only [frame, length_frameBits, hlatch]
  omega

/-- Settles O25: the receiver's whitening undoes the radio's, and the CRC's own bits bring its register to 0. -/
theorem receiverRecoversThePdu : Obligations.ReceiverRecoversThePdu := by
  intro latch
  refine ⟨?_, crc24_append_crcBits _ _ _⟩
  rw [frame, drop_frameBits]
  exact whiteningIsItsOwnInverse _ _

/-! ## The frame of a configured radio (R177, R178) -/

/-- Settles O27: what the radio reads in its configuration registers are the settings of R177's frame, its channel and its power. -/
theorem configuredRadioSendsTheFrame : Obligations.ConfiguredRadioSendsTheFrame := by
  intro r latch h
  have words := Radio.blockConfigured_iff.mp h
  simp only [Radio.configWords, blockConfigWords, List.cons.injEq] at words
  obtain ⟨-, hfrequency, -, -, hbase, hprefix, -, -, hpoly, hinit, hpower, hiv, -⟩ := words
  obtain ⟨-, -, -, -, -, -, low⟩ := radioConfigWritesModeToBase
  obtain ⟨-, power, freq, -⟩ := low r
  obtain ⟨-, -, -, -, -, -, high⟩ := radioConfigWritesPrefixToWhitening
  obtain ⟨-, address, -, poly, initial, iv⟩ := high r
  rw [Radio.airFrame, if_pos h, address hprefix hbase, poly hpoly, initial hinit, iv hiv, freq hfrequency, power hpower]
  rfl

end Sys2Proof.Machine

/-!
PROOFS. The PDU encoder (43_pdu_encoder.md): the store, the stores of `encode` in the order the DRIVER makes them, what the buffer
holds after each of them, and a whole call of `encode`.
-/

namespace Sys2Proof.Machine

/-! ## The store (R199) -/

theorem byteData_toNat_lt (b : Byte) : (byteData b).toNat < 256 := by
  simp only [byteData, BitVec.toNat_setWidth]
  omega

@[simp] theorem dataByte_byteData (b : Byte) : dataByte (byteData b) = b := by
  simp [dataByte, byteData]

theorem racesLatch_iff (s : State) (a : Word) : racesLatch s a = true ↔
    ∃ l, s.radio.rs = .transmitting l ∧ l.ptr.toNat ≤ a.toNat ∧ a.toNat < l.ptr.toNat + l.bytes.length := by
  cases hrs : s.radio.rs <;> simp [racesLatch, hrs]

/-- A store of a byte checks the window, then the packet being sent. -/
theorem exec_stb_byte (a : Word) (b : Byte) (s : State) : exec (.stb a (byteData b)) s =
    if inRam a.toNat = false then fail (.unadmitted ⟨.write, a, byteData b⟩ .address) s
    else if racesLatch s a then fail (.dmaRace a) s
    else .next ({ s with ram := Memory.write s.ram a.toNat b }).advance := by
  have hb : ¬ 256 ≤ (byteData b).toNat := Nat.not_le.mpr (byteData_toNat_lt b)
  simp only [exec, execStb, if_neg hb, dataByte_byteData]

/-- In the window and off the packet being sent, the byte is written. -/
theorem exec_stb_of_inRam {a : Word} {b : Byte} {s : State} (hin : inRam a.toNat = true) (hrace : racesLatch s a = false) :
    exec (.stb a (byteData b)) s = .next ({ s with ram := Memory.write s.ram a.toNat b }).advance := by
  simp [exec_stb_byte, hin, hrace]

/-- Settles O28: the two checks of the store, then read after write. -/
theorem stbWritesOneByte : Obligations.StbWritesOneByte := by
  intro s a b
  refine ⟨fun hf hout => ?_, fun hlo hhi => ?_⟩
  · have hin : inRam a.toNat = false := by
      rw [← Bool.not_eq_true, Safety.inRam_iff]
      omega
    exact faults_of_fail hf ((exec_stb_byte a b s).trans (if_pos hin))
  have hin : inRam a.toNat = true := (Safety.inRam_iff _).mpr ⟨hlo, hhi⟩
  refine ⟨fun l hf hrs hle hlt => ?_, fun hfree hwf => ?_⟩
  · have hrace : racesLatch s a = true := (racesLatch_iff s a).mpr ⟨l, hrs, hle, hlt⟩
    refine faults_of_fail hf ((exec_stb_byte a b s).trans ?_)
    rw [if_neg (by simp [hin]), if_pos hrace]
  · have hrace : racesLatch s a = false := by
      rw [← Bool.not_eq_true, racesLatch_iff]
      rintro ⟨l, hrs, hl⟩
      exact hfree l hrs hl
    exact ⟨_, exec_stb_of_inRam hin hrace, Memory.read_write _ _ _ hwf,
      fun x hx => Memory.read_write_other _ _ _ _ hx, Memory.write_wf _ _ _ hwf⟩

/-! ## The stores of `encode` in order (R185)

Lines 2 to 8 make `14 + n` stores, one a step: the bytes of offsets 0 to `12 + n` in order, the length byte among them as 0, and
last the final length byte at offset 1. -/

/-- The position at which `encode` has made `k` stores; after all of them, line 9. -/
def encodeAt (name : List Byte) (k : Nat) : Seq :=
  if k < 2 then ⟨.encode name, k + 2, 0⟩
  else if k < 8 then ⟨.encode name, 4, k - 2⟩
  else if k < 11 then ⟨.encode name, 5, k - 8⟩
  else if k < 13 then ⟨.encode name, 6, k - 11⟩
  else if k < pduLength name then ⟨.encode name, 7, k - 13⟩
  else ⟨.encode name, k - name.length - 5, 0⟩

/-- The buffer offset of the `k`-th store. -/
def storeOffset (name : List Byte) (k : Nat) : Nat := if k = pduLength name then 1 else k

/-- The byte of the `k`-th store: the PDU's at its offset, but 0 for the length byte's first store. -/
def storeByte (name : List Byte) (k : Nat) : Byte := if k = 1 then 0 else (encodeBytes name).getD (storeOffset name k) 0

section
variable (name : List Byte)

theorem pduLength_eq : pduLength name = 13 + name.length := rfl

/-- Through the name, `encode` is at line 7. -/
theorem encodeAt_name {i : Nat} (hi : i < name.length) : encodeAt name (13 + i) = ⟨.encode name, 7, i⟩ := by
  rw [encodeAt, if_neg (by omega), if_neg (by omega), if_neg (by omega), if_neg (by omega),
    if_pos (by rw [pduLength_eq]; omega), Nat.add_sub_cancel_left]

theorem encodeAt_of_ge {name : List Byte} {k : Nat} (hk : pduLength name ≤ k) :
    encodeAt name k = ⟨.encode name, k - name.length - 5, 0⟩ := by
  have hk' : 13 + name.length ≤ k := hk
  rw [encodeAt, if_neg (by omega), if_neg (by omega), if_neg (by omega), if_neg (by omega), if_neg (by omega)]

/-- The last store is line 8's. -/
theorem encodeAt_lengthByte : encodeAt name (pduLength name) = ⟨.encode name, 8, 0⟩ := by
  rw [encodeAt_of_ge le_rfl, pduLength_eq, show 13 + name.length - name.length - 5 = 8 by omega]

/-- After all stores `encode` is at line 9. -/
theorem encodeAt_done : encodeAt name (pduLength name + 1) = ⟨.encode name, 9, 0⟩ := by
  rw [encodeAt_of_ge (Nat.le_succ _), pduLength_eq, show 13 + name.length + 1 - name.length - 5 = 9 by omega]

/-- The stores before the name's, the name's, and the length byte's. -/
theorem store_cases {k : Nat} (hk : k ≤ pduLength name) :
    k < 13 ∨ (∃ i, i < name.length ∧ k = 13 + i) ∨ k = pduLength name := by
  rw [pduLength_eq] at *
  rcases Nat.lt_or_ge k 13 with h | h
  · exact .inl h
  · rcases Nat.lt_or_eq_of_le hk with h' | h'
    · exact .inr (.inl ⟨k - 13, by omega, by omega⟩)
    · exact .inr (.inr h')

theorem encodeBytes_getD_name {i : Nat} {b : Byte} (hb : name[i]? = some b) : (encodeBytes name).getD (13 + i) 0 = b := by
  have happ : encodeBytes name =
    ([headerByte, lengthByte name] ++ advertiserAddress ++ flagsAd ++ nameAdHeader name) ++ name := rfl
  rw [List.getD_eq_getElem?_getD, happ, List.getElem?_append_right (by simp [advertiserAddress, flagsAd, nameAdHeader])]
  simp [advertiserAddress, flagsAd, nameAdHeader, hb]

end

section
variable {name : List Byte} {k : Nat}

/-- A store goes on to the next. -/
theorem encodeAt_next (hk : k ≤ pduLength name) : (encodeAt name k).next = encodeAt name (k + 1) := by
  rcases store_cases name hk with h | ⟨i, hi, rfl⟩ | rfl
  · have h13 : k = 12 ∨ k < 12 := by omega
    rcases h13 with rfl | h
    · cases name with
      | nil => rfl
      | cons b bs => rw [encodeAt_name (i := 0) _ (by simp)]; rfl
    · interval_cases k <;> rfl
  · rw [encodeAt_name name hi]
    rcases Nat.lt_or_eq_of_le (Nat.succ_le_of_lt hi) with hlt | heq
    · rw [Nat.add_assoc, encodeAt_name name hlt]
      simp [Seq.next, encodeSteps, hlt]
    · rw [show 13 + i + 1 = pduLength name by rw [pduLength_eq]; omega, encodeAt_lengthByte]
      simp [Seq.next, encodeSteps, encodeLineAfter]
      omega
  · rw [encodeAt_lengthByte, encodeAt_done]
    rfl

/-- The `STB` at each of these positions. -/
theorem encodeStb_encodeAt (base : Word) (hk : k ≤ pduLength name) :
    encodeStb base name (encodeAt name k).line (encodeAt name k).sub =
      some (.stb (base + BitVec.ofNat 32 (storeOffset name k)) (byteData (storeByte name k))) := by
  rcases store_cases name hk with h | ⟨i, hi, rfl⟩ | rfl
  · have hoff : storeOffset name k = k := if_neg (by rw [pduLength_eq]; omega)
    simp only [storeByte, hoff]
    interval_cases k <;> rfl
  · have hoff : storeOffset name (13 + i) = 13 + i := if_neg (by rw [pduLength_eq]; omega)
    have hb : name[i]? = some name[i] := List.getElem?_eq_getElem hi
    rw [encodeAt_name name hi, storeByte, hoff, if_neg (by omega), encodeBytes_getD_name name hb]
    simp only [encodeStb, encodeLineBytes, hb]
  · have hoff : storeOffset name (pduLength name) = 1 := if_pos rfl
    rw [encodeAt_lengthByte, storeByte, hoff, if_neg (by rw [pduLength_eq]; omega)]
    rfl

/-- Every position of `encode` with a store is one of these. -/
theorem exists_encodeAt {base : Word} {line sub : Nat} (h : (encodeStb base name line sub).isSome = true) :
    ∃ k, k ≤ pduLength name ∧ (⟨.encode name, line, sub⟩ : Seq) = encodeAt name k := by
  have hbytes : ∃ offset bytes, encodeLineBytes name line = some (offset, bytes) ∧ sub < bytes.length := by
    unfold encodeStb at h
    split at h
    · cases h
    · rename_i offset bytes hline
      refine ⟨offset, bytes, hline, ?_⟩
      by_contra hsub
      simp [List.getElem?_eq_none (Nat.not_lt.mp hsub)] at h
  obtain ⟨offset, bytes, hline, hsub⟩ := hbytes
  unfold encodeLineBytes at hline
  split at hline <;> cases hline
  case h_6 => exact ⟨13 + sub, by rw [pduLength_eq]; omega, (encodeAt_name name hsub).symm⟩
  case h_7 =>
    obtain rfl : sub = 0 := Nat.lt_one_iff.mp hsub
    exact ⟨pduLength name, le_rfl, (encodeAt_lengthByte name).symm⟩
  case h_1 =>
    obtain rfl : sub = 0 := Nat.lt_one_iff.mp hsub
    exact ⟨0, Nat.zero_le _, rfl⟩
  case h_2 =>
    obtain rfl : sub = 0 := Nat.lt_one_iff.mp hsub
    exact ⟨1, by rw [pduLength_eq]; omega, rfl⟩
  case h_3 =>
    replace hsub : sub < 6 := hsub
    exact ⟨2 + sub, by rw [pduLength_eq]; omega, by interval_cases sub <;> rfl⟩
  case h_4 =>
    replace hsub : sub < 3 := hsub
    exact ⟨8 + sub, by rw [pduLength_eq]; omega, by interval_cases sub <;> rfl⟩
  case h_5 =>
    replace hsub : sub < 2 := hsub
    exact ⟨11 + sub, by rw [pduLength_eq]; omega, by interval_cases sub <;> rfl⟩

theorem encodeAt_proc (name : List Byte) (k : Nat) : (encodeAt name k).proc = .encode name := by
  unfold encodeAt
  split_ifs <;> rfl

theorem storeOffset_lt (hk : k ≤ pduLength name) : storeOffset name k < pduLength name := by
  have hlen := pduLength_eq name
  unfold storeOffset
  split <;> omega

end

/-! ## What the stores leave in RAM (R192, R196) -/

/-- After `k` stores the buffer at `base` holds the PDU's first `k` bytes, but for the length byte before the last store. -/
def Encoded (m : Memory) (base : Nat) (name : List Byte) (k : Nat) : Prop :=
  ∀ j, j < k → j < pduLength name →
    (j = 1 ∧ k ≤ pduLength name) ∨ some (Memory.read m (base + j)) = (encodeBytes name)[j]?

/-- RAM after `k` stores of `encode`. -/
def encodeRam (m : Memory) (base : Nat) (name : List Byte) : Nat → Memory
  | 0 => m
  | k + 1 => Memory.write (encodeRam m base name k) (base + storeOffset name k) (storeByte name k)

section
variable {m : Memory} {base k : Nat} {name : List Byte}

/-- Each store but the length byte's first writes the PDU's byte. -/
theorem storeByte_eq (hk : k ≤ pduLength name) (h1 : k ≠ 1) :
    some (storeByte name k) = (encodeBytes name)[storeOffset name k]? := by
  have hlt : storeOffset name k < (encodeBytes name).length :=
    (storeOffset_lt hk).trans_eq (Safety.encodeBytes_length name).symm
  rw [storeByte, if_neg h1, List.getD_eq_getElem?_getD, List.getElem?_eq_getElem hlt, Option.getD_some]

theorem Encoded.write (h : Encoded m base name k) (hk : k ≤ pduLength name) (hwf : Memory.wf m = true) :
    Encoded (Memory.write m (base + storeOffset name k) (storeByte name k)) base name (k + 1) := by
  have hlen := pduLength_eq name
  intro j hj hjlen
  by_cases hat : j = storeOffset name k
  · subst hat
    by_cases h1 : k = 1
    · have hoff : storeOffset name k = k := if_neg (by omega)
      exact .inl ⟨by omega, by omega⟩
    · exact .inr (by rw [Memory.read_write _ _ _ hwf, storeByte_eq hk h1])
  · rw [Memory.read_write_other _ _ _ _ (by omega)]
    have hoff : storeOffset name k = if k = pduLength name then 1 else k := rfl
    split at hoff
    · exact .inr ((h j (by omega) hjlen).resolve_left (by omega))
    · exact (h j (by omega) hjlen).imp_left fun ⟨hone, _⟩ => ⟨hone, by omega⟩

/-- Once all stores are made, the buffer holds the PDU. -/
theorem Encoded.read (h : Encoded m base name (pduLength name + 1)) {j : Nat} (hj : j < pduLength name) :
    some (Memory.read m (base + j)) = (encodeBytes name)[j]? :=
  (h j (by omega) hj).resolve_left (by omega)

theorem encodeRam_wf (hwf : Memory.wf m = true) : Memory.wf (encodeRam m base name k) = true := by
  induction k with
  | zero => exact hwf
  | succ k ih => exact Memory.write_wf _ _ _ ih

theorem encodeRam_encoded (hwf : Memory.wf m = true) (hk : k ≤ pduLength name + 1) :
    Encoded (encodeRam m base name k) base name k := by
  induction k with
  | zero => exact fun j hj => absurd hj (Nat.not_lt_zero j)
  | succ k ih => exact (ih (by omega)).write (by omega) (encodeRam_wf hwf)

/-- The stores stay in the PDU's part of the buffer. -/
theorem encodeRam_outside (hk : k ≤ pduLength name + 1) {x : Nat} (hx : x < base ∨ base + pduLength name ≤ x) :
    Memory.read (encodeRam m base name k) x = Memory.read m x := by
  induction k with
  | zero => rfl
  | succ k ih =>
    have hoff := storeOffset_lt (Nat.le_of_succ_le_succ hk)
    rw [encodeRam, Memory.read_write_other _ _ _ _ (by omega), ih (by omega)]

end

/-! ## The DRIVER in `encode` -/

section
variable {s : State} {name : List Byte} {k : Nat}

/-- A position with a store issues it. -/
theorem encodeLine_of_stb {i : Instr} {line sub : Nat} (h : encodeStb s.params.bufBase name line sub = some i) :
    encodeLine name s line sub = .issue i := by
  unfold encodeLine
  split
  · cases h
  · cases h
  · rw [h]

theorem lineAt_encode (hp : s.drv.seq.proc = .encode name) :
    lineAt s = encodeLine name s s.drv.seq.line s.drv.seq.sub := by
  simp only [lineAt, hp]

theorem lineAt_encode_accepts (hp : s.drv.seq.proc = .encode name) (hn : s.drv.seq.line = 1)
    (hfit : nameFits name = true) : lineAt s = .compute s.advance := by
  rw [lineAt_encode hp, hn]
  exact if_pos hfit

theorem lineAt_encode_rejects (hp : s.drv.seq.proc = .encode name) (hn : s.drv.seq.line = 1)
    (hfit : nameFits name = false) :
    lineAt s = .compute (s.setDrv { s.drv with r := some (.nameTooLong name.length) }).ret := by
  rw [lineAt_encode hp, hn]
  exact if_neg (Bool.not_eq_true _ ▸ hfit)

theorem lineAt_encode_returns (hp : s.drv.seq.proc = .encode name) (hn : s.drv.seq.line = 9) :
    lineAt s = .compute (s.setDrv (encodeDone name s)).ret := by
  rw [lineAt_encode hp, hn]
  rfl

/-- The address of the `k`-th store. -/
def storeAddr (p : Params) (name : List Byte) (k : Nat) : Word := p.bufBase + BitVec.ofNat 32 (storeOffset name k)

theorem lineAt_encodeAt (hq : s.drv.seq = encodeAt name k) (hk : k ≤ pduLength name) :
    lineAt s = .issue (.stb (storeAddr s.params name k) (byteData (storeByte name k))) := by
  rw [lineAt_encode (hq ▸ encodeAt_proc name k), hq]
  exact encodeLine_of_stb (encodeStb_encodeAt _ hk)

/-- The PDU of an accepted name fits in a placed buffer (R191, R192). -/
theorem storeAddr_placed {p : Params} (hplaced : Safety.bufferPlaced p = true) (hfit : name.length ≤ 26)
    (hk : k ≤ pduLength name) :
    (storeAddr p name k).toNat = p.bufBase.toNat + storeOffset name k ∧ inRam (storeAddr p name k).toNat = true := by
  obtain ⟨⟨-, hlo⟩, hhi⟩ := (Safety.bufferPlaced_iff p).mp hplaced
  have hoff := storeOffset_lt hk
  have hlen := pduLength_eq name
  have haddr : (storeAddr p name k).toNat = p.bufBase.toNat + storeOffset name k := by
    rw [storeAddr, BitVec.toNat_add, BitVec.toNat_ofNat]
    omega
  rw [haddr, Safety.inRam_iff]
  omega

/-- `s` in `encode` after `k` stores, with the turns to come. -/
def State.encoding (s : State) (name : List Byte) (k : Nat) (turns : List Agent) : State :=
  { s with
    drv := { s.drv with seq := encodeAt name k }
    ram := encodeRam s.ram s.params.bufBase.toNat name k
    turns := turns
    clock := s.clock + (1 + k) }

variable {rest : List Agent} (hf : s.fault = none) (hm : s.drv.mode = .running) (hrs : s.radio.rs = .idle)
  (hplaced : Safety.bufferPlaced s.params = true) (hfit : name.length ≤ 26)
include hf hm hrs hplaced hfit

/-- With an idle radio, a step makes the next store. -/
theorem step_encoding (hk : k ≤ pduLength name) :
    step (s.encoding name k (.driver :: rest)) = .next (s.encoding name (k + 1) rest) := by
  obtain ⟨haddr, hin⟩ := storeAddr_placed hplaced hfit hk
  have hl := lineAt_encodeAt (s := s.encoding name k (.driver :: rest)) rfl hk
  have hrace : racesLatch (s.encoding name k (.driver :: rest)) (storeAddr s.params name k) = false := by
    simp only [racesLatch, State.encoding, hrs]
  have hd := decodeEncodeRoundTrip (.stb (storeAddr s.params name k) (byteData (storeByte name k))) hin
  rw [stepRunsDecodedOperation (s.encoding name k (.driver :: rest)) _ _ ⟨hf, rfl, hm⟩ hl hd,
    exec_stb_of_inRam hin hrace, haddr, passTurnOf, State.advance, State.setSeq, State.passTurn]
  simp only [State.encoding, encodeAt_next hk, encodeRam, List.tail_cons, Nat.add_assoc]

/-- The remaining stores on the DRIVER's next turns. -/
theorem run_encoding {j : Nat} (hk : k + j = pduLength name + 1) (n : Nat) :
    Host.Core.run Sys2Proof.core (n + j) (s.encoding name k (List.replicate j .driver ++ rest)) =
      Host.Core.run Sys2Proof.core n (s.encoding name (pduLength name + 1) rest) := by
  induction j generalizing k with
  | zero =>
    obtain rfl : k = pduLength name + 1 := hk
    rfl
  | succ j ih =>
    exact (run_of_next _ (step_encoding hf hm hrs hplaced hfit (by omega))).trans (ih (by omega))

end

theorem encodeBytes_eq_pduBytes (name : List Byte) : encodeBytes name = Claims.pduBytes name := by
  have hlen : lengthByte name = BitVec.ofNat 8 (11 + name.length) := by
    rw [lengthByte, pduLength_eq, show 13 + name.length - 8 + 6 = 11 + name.length by omega]
  simp only [encodeBytes, hlen]
  rfl

/-- Settles O31: line 1 sets the error and returns. -/
theorem encodeRejectsLongNames : Obligations.EncodeRejectsLongNames := by
  intro s name caller callers hmoves hq hcallers hlong
  have hfit : nameFits name = false := by
    rw [← Bool.not_eq_true, Safety.nameFits_iff]
    omega
  rw [step_compute hmoves (lineAt_encode_rejects (by rw [hq]) (by rw [hq]) hfit)]
  simp only [State.ret, State.setDrv, hcallers]

/-- Settles O30: line 1 accepts the name, the stores of lines 2 to 8 follow one a step, line 9 returns. -/
theorem encodeFillsTheBuffer : Obligations.EncodeFillsTheBuffer := by
  intro s name caller callers rest hf hm hq hcallers hfit hplaced hwf hrs hts
  have hlen := pduLength_eq name
  have hturns : s.turns = .driver :: (List.replicate (14 + name.length) .driver ++ .driver :: rest) := by
    rw [hts, show 16 + name.length = 14 + name.length + 1 + 1 by omega, List.replicate_succ, List.replicate_succ']
    simp
  have entry : step s = .next (s.encoding name 0 (List.replicate (14 + name.length) .driver ++ .driver :: rest)) := by
    rw [step_compute ⟨hf, by rw [State.nextAgent, hturns], hm⟩
      (lineAt_encode_accepts (by rw [hq]) (by rw [hq]) ((Safety.nameFits_iff name).mpr hfit))]
    simp only [State.advance, State.setSeq, State.passTurn, hq, hturns]
    rfl
  have last : step (s.encoding name (pduLength name + 1) (.driver :: rest)) = .next
      { s with
        drv := { s.drv with
          bufAddr := some s.params.bufBase
          pduLen := some (BitVec.ofNat 32 (13 + name.length))
          r := some (.ok s.params.bufBase (BitVec.ofNat 32 (13 + name.length)))
          seq := caller
          callers := callers }
        ram := encodeRam s.ram s.params.bufBase.toNat name (pduLength name + 1)
        turns := rest
        clock := s.clock + (16 + name.length) } := by
    have hdone := encodeAt_done name
    rw [step_compute (s := s.encoding name (pduLength name + 1) (.driver :: rest)) ⟨hf, rfl, hm⟩
      (lineAt_encode_returns (encodeAt_proc _ _) (congrArg Seq.line hdone))]
    simp only [State.ret, State.setDrv, encodeDone, State.encoding, State.passTurn, hcallers, hlen, List.tail_cons]
    rw [show s.clock + (1 + (13 + name.length + 1)) + 1 = s.clock + (16 + name.length) by omega]
  refine ⟨_, ?_, fun j hj => ?_, fun x hx => encodeRam_outside le_rfl hx⟩
  · refine Eq.trans (congrArg (Claims.runSteps · s) (show 16 + name.length = 1 + (14 + name.length) + 1 by omega)) ?_
    refine Eq.trans (run_of_next _ entry) ?_
    refine Eq.trans (run_encoding hf hm hrs hplaced hfit (by omega) 1) ?_
    exact run_of_next 0 last
  · rw [← encodeBytes_eq_pduBytes]
    exact (encodeRam_encoded hwf le_rfl).read hj

end Sys2Proof.Machine

/-!
PROOFS. What the block's own program has produced (45_transmit_loop.md): the DRIVER's moves that leave RAM, the air trace, the log and
the two counters alone, the radio's state and its latch at each position, and the program's lines one by one.
-/

namespace Sys2Proof.Machine

/-! ## Moves that produce nothing -/

/-- `u` has the same RAM, air trace, log, transmit count and iteration as `s`. -/
structure SameLedger (s u : State) : Prop where
  params : u.params = s.params
  ram : u.ram = s.ram
  air : u.air = s.air
  log : u.log = s.log
  txCount : u.drv.txCount = s.drv.txCount
  iter : u.drv.iter = s.drv.iter

/-- The DRIVER stays or goes to the next step, and of its variables at most `v` changes. -/
def DriverGoes (d d' : Driver) : Prop := ∃ v q, (q = d.seq ∨ q = d.seq.next) ∧ d' = { d with v := v, seq := q }

/-- Transactions other than `STB`. -/
def isRegisterAccess : Instr → Bool
  | .stb _ _ => false
  | i => !isProcedure i

section
variable {i : Instr} {s t u : State}

theorem SameLedger.refl (s : State) : SameLedger s s := ⟨rfl, rfl, rfl, rfl, rfl, rfl⟩

theorem SameLedger.trans (h : SameLedger s t) (h' : SameLedger t u) : SameLedger s u :=
  ⟨h'.params.trans h.params, h'.ram.trans h.ram, h'.air.trans h.air, h'.log.trans h.log, h'.txCount.trans h.txCount,
    h'.iter.trans h.iter⟩

theorem SameLedger.raise (m : FaultMark) (s : State) : SameLedger s (s.raise m) := by constructor <;> simp

theorem SameLedger.setSeq (q : Seq) (s : State) : SameLedger s (s.setSeq q) := ⟨rfl, rfl, rfl, rfl, rfl, rfl⟩

theorem SameLedger.ret (s : State) : SameLedger s s.ret := by constructor <;> simp

theorem DriverGoes.raise (m : FaultMark) (s : State) : DriverGoes s.drv (s.raise m).drv :=
  ⟨s.drv.v, s.drv.seq, .inl rfl, State.raise_drv m s⟩

/-- An operation that faults or acts and goes on moves the DRIVER so. -/
theorem DriverGoes.of_advance
    (h : (∃ m, t = s.raise m) ∨ ∃ r tm m, t = ({ s with radio := r, timer := tm, ram := m } : State).advance) :
    DriverGoes s.drv t.drv := by
  rcases h with ⟨m, rfl⟩ | ⟨_, _, _, rfl⟩
  · exact .raise m s
  · exact ⟨_, _, .inr rfl, rfl⟩

/-- Every transaction moves the DRIVER so. -/
theorem exec_driverGoes (h : exec i s = .next t) (hb : isProcedure i = false) : DriverGoes s.drv t.drv := by
  cases i with
  | trigRadioTxen data =>
    rcases execTrigRadioTxen_cases _ _ _ h with hm | ⟨-, -, rfl⟩ | ⟨-, -, ht⟩
    · exact .of_advance (.inl hm)
    · exact ⟨_, _, .inl rfl, rfl⟩
    · exact .of_advance (.inr ⟨_, _, _, ht⟩)
  | trigRadioStart data =>
    exact .of_advance ((execTrigRadioStart_cases _ _ _ h).imp_right fun ⟨_, _, _, _, _, ht⟩ => ⟨_, _, _, ht⟩)
  | trigRadioDisable data =>
    exact .of_advance ((execTrigRadioDisable_cases _ _ _ h).imp_right fun ⟨_, _, ht⟩ => ⟨_, _, _, ht⟩)
  | stb addr data => exact .of_advance ((execStb_cases _ _ _ _ h).imp_right fun ⟨_, _, _, ht⟩ => ⟨_, _, _, ht⟩)
  | clrRadioReady _ | clrRadioEnd _ | clrTimerCompare0 _ =>
    exact .of_advance ((clearEvent_cases _ _ _ _ _ h).imp_right fun ⟨_, ht⟩ => ⟨_, _, _, ht⟩)
  | wrRadioFrequency _ | wrRadioTxpower _ | wrRadioMode _ | wrRadioPcnf0 _ | wrRadioPcnf1 _ | wrRadioBase0 _
  | wrRadioPrefix0 _ | wrRadioTxaddress _ | wrRadioCrccnf _ | wrRadioCrcpoly _ | wrRadioCrcinit _
  | wrRadioDatawhiteiv _ =>
    exact .of_advance ((configWrite_cases _ _ _ _ _ _ h).imp_right fun ⟨_, _, ht⟩ => ⟨_, _, _, ht⟩)
  | trigTimerStart _ | trigTimerStop _ | trigTimerClear _ =>
    exact .of_advance ((timerTask_cases _ _ _ _ _ h).imp_right fun ⟨_, ht⟩ => ⟨_, _, _, ht⟩)
  | wrTimerMode _ | wrTimerBitmode _ | wrTimerPrescaler _ =>
    exact .of_advance ((timerConfigWrite_cases _ _ _ _ _ _ h).imp_right fun ⟨_, _, ht⟩ => ⟨_, _, _, ht⟩)
  | wrRadioPacketptr _ | wrTimerCc0 _ | rdRadioReady | rdRadioEnd | rdTimerCompare0 =>
    cases h; exact ⟨_, _, .inr rfl, rfl⟩
  | callMain | callConfigure | callTransmit _ | callEncode _ | callTimerInit | callDelayMs _ | halt => cases hb

/-- An operation leaves RAM alone or is a store (R199). -/
theorem effect_ram_cases (i : Instr) (s : State) : (effect i s).ram = s.ram ∨
    ∃ a d, i = .stb a d ∧ (effect i s).ram = Memory.write s.ram a.toNat (dataByte d) := by
  cases i with
  | stb a d => exact .inr ⟨a, d, rfl, rfl⟩
  | trigRadioTxen _ | trigRadioStart _ => exact .inl (by simp only [effect]; split <;> rfl)
  | _ => exact .inl rfl

theorem isProcedure_of_isRegisterAccess (h : isRegisterAccess i = true) : isProcedure i = false := by
  cases i with
  | stb _ _ => rfl
  | _ => exact (Bool.not_eq_true' _).mp h

theorem encodable_of_isRegisterAccess (h : isRegisterAccess i = true) : encodable i = true := by
  cases i with
  | stb _ _ => cases h
  | _ => rfl

/-- A register access produces nothing. -/
theorem exec_sameLedger (h : exec i s = .next t) (hi : isRegisterAccess i = true) : SameLedger s t := by
  obtain ⟨v, q, -, hdrv⟩ := exec_driverGoes h (isProcedure_of_isRegisterAccess hi)
  rcases exec_faultsOrActs h with ⟨m, rfl⟩ | ⟨-, d, rfl⟩
  · exact .raise m s
  · have hram : (effect i s).ram = s.ram := by
      rcases effect_ram_cases i s with hsame | ⟨_, _, rfl, -⟩
      · exact hsame
      · cases hi
    obtain ⟨_, _, _, heff⟩ := effect_frame i s
    refine ⟨effect_params i s, hram, effect_air i s, ?_, by rw [hdrv], by rw [hdrv]⟩
    rw [State.setDrv_log, heff]

end

/-! ## Procedures that run straight through -/

/-- The procedures whose lines are register accesses and waits between a first check and a return. -/
def Proc.isStraight : Proc → Bool
  | .configure => true
  | .transmit _ => true
  | .timerInit => true
  | .delayMs _ => true
  | _ => false

/-- The line of the return. -/
def Proc.returnLine : Proc → Nat
  | .configure => 13
  | .transmit _ => 10
  | .timerInit => 4
  | .delayMs _ => 8
  | _ => 0

/-- Where a step of such a procedure takes the sequence pointer. -/
inductive StraightMove (s u : State) : Prop
  | stays (seq : u.drv.seq = s.drv.seq)
  | goesOn (seq : u.drv.seq = s.drv.seq.next)
  | returns (line : s.drv.seq.line = s.drv.seq.proc.returnLine) (seq : ∀ q, s.drv.callers = [q] → u.drv.seq = q)

/-- A line of such a procedure: a register access, a wait, or a computation that produces nothing. -/
def Line.Straight (s : State) : Line → Prop
  | .op c => ∃ i, c = encode i ∧ isRegisterAccess i = true
  | .compute t => SameLedger s t ∧ StraightMove s t
  | .poll c => ∃ e : Event, c = encode e.read
  | .exit => True

section
variable {s t : State}

theorem StraightMove.of_driverGoes (h : DriverGoes s.drv t.drv) : StraightMove s t := by
  obtain ⟨v, q, hq | hq, hdrv⟩ := h
  · exact .stays (by rw [hdrv, hq])
  · exact .goesOn (by rw [hdrv, hq])

@[simp] theorem Line.straight_exit : Line.exit.Straight s := trivial
@[simp] theorem Line.straight_await (e : Event) : (Line.await e).Straight s := ⟨e, rfl⟩
@[simp] theorem Line.straight_raise (m : FaultMark) : (Line.raise m s).Straight s :=
  ⟨.raise m s, .of_driverGoes (.raise m s)⟩
@[simp] theorem Line.straight_advance : (Line.compute s.advance).Straight s := ⟨.setSeq _ s, .goesOn rfl⟩

theorem Line.straight_issue {i : Instr} (hi : isRegisterAccess i = true) : (Line.issue i).Straight s := ⟨i, rfl, hi⟩

theorem Line.straight_ret {d : Driver} (hn : s.drv.seq.line = s.drv.seq.proc.returnLine) (hc : d.callers = s.drv.callers)
    (ht : d.txCount = s.drv.txCount) (hi : d.iter = s.drv.iter) : (Line.compute (s.setDrv d).ret).Straight s := by
  have hset : SameLedger s (s.setDrv d) := ⟨rfl, rfl, rfl, rfl, ht, hi⟩
  refine ⟨hset.trans (.ret _), .returns hn fun q hq => ?_⟩
  exact (State.ret_to_caller (s.setDrv d) q [] (hc.trans hq)).1

theorem configureLine_straight (hp : s.drv.seq.proc = .configure) : (configureLine s s.drv.seq.line).Straight s := by
  unfold configureLine
  split
  case h_1 => split <;> simp
  case h_14 hn => exact Line.straight_ret (by rw [hp, hn]; rfl) rfl rfl rfl
  case h_15 => exact trivial
  all_goals exact Line.straight_issue rfl

theorem transmitLine_straight {a : Word} (hp : s.drv.seq.proc = .transmit a) :
    (transmitLine a s s.drv.seq.line).Straight s := by
  unfold transmitLine
  split
  case h_1 => split <;> simp
  case h_6 | h_9 => simp
  case h_11 hn => exact Line.straight_ret (d := s.drv) (by rw [hp, hn]; rfl) rfl rfl rfl
  case h_12 => exact trivial
  all_goals exact Line.straight_issue rfl

theorem timerInitLine_straight (hp : s.drv.seq.proc = .timerInit) : (timerInitLine s s.drv.seq.line).Straight s := by
  unfold timerInitLine
  split
  case h_4 hn => exact Line.straight_ret (by rw [hp, hn]; rfl) rfl rfl rfl
  case h_5 => exact trivial
  all_goals exact Line.straight_issue rfl

theorem delayMsLine_straight {n : Word} (hp : s.drv.seq.proc = .delayMs n) :
    (delayMsLine n s s.drv.seq.line).Straight s := by
  unfold delayMsLine
  split
  case h_1 => split <;> simp
  case h_2 =>
    split
    · simp
    · exact ⟨⟨rfl, rfl, rfl, rfl, rfl, rfl⟩, .goesOn rfl⟩
  case h_4 =>
    split
    · simp
    · split
      · simp
      · exact Line.straight_issue rfl
  case h_7 => simp
  case h_9 hn => exact Line.straight_ret (d := s.drv) (by rw [hp, hn]; rfl) rfl rfl rfl
  case h_10 => exact trivial
  all_goals exact Line.straight_issue rfl

theorem lineAt_straight (hp : s.drv.seq.proc.isStraight = true) : (lineAt s).Straight s := by
  cases hproc : s.drv.seq.proc with
  | configure => simpa only [lineAt, hproc] using configureLine_straight hproc
  | transmit a => simpa only [lineAt, hproc] using transmitLine_straight hproc
  | timerInit => simpa only [lineAt, hproc] using timerInitLine_straight hproc
  | delayMs n => simpa only [lineAt, hproc] using delayMsLine_straight hproc
  | main | encode _ | halt | foreign => rw [hproc] at hp; cases hp

/-- A register access moves the DRIVER straight on and produces nothing. -/
theorem runCode_straight {i : Instr} (hi : isRegisterAccess i = true) (h : runCode (encode i) s = .next t) :
    SameLedger s t ∧ StraightMove s t := by
  have hd := decodeEncodeRoundTrip i (encodable_of_isRegisterAccess hi)
  simp only [runCode, hd] at h
  exact ⟨exec_sameLedger h hi, .of_driverGoes (exec_driverGoes h (isProcedure_of_isRegisterAccess hi))⟩

/-- What a step of these procedures can do. -/
theorem driverStep_straight (hp : s.drv.seq.proc.isStraight = true) (h : driverStep s = .next t) :
    SameLedger s t ∧ StraightMove s t := by
  have hl := lineAt_straight hp
  rcases driverStep_cases _ _ h with ⟨-, rfl⟩ | hx | ⟨c, hx, hr⟩ | ⟨c, u, hx, hr, hu⟩
  · exact ⟨.refl _, .stays rfl⟩
  · rwa [hx] at hl
  · rw [hx] at hl
    obtain ⟨i, rfl, hi⟩ := hl
    exact runCode_straight hi hr
  · rw [hx] at hl
    obtain ⟨e, rfl⟩ := hl
    obtain ⟨hsame, hmove⟩ := runCode_straight (by cases e <;> rfl) hr
    rcases hu with rfl | rfl
    · exact ⟨hsame, hmove⟩
    · exact ⟨hsame.trans (.setSeq _ u), .stays rfl⟩

end

end Sys2Proof.Machine

namespace Sys2Proof.Machine

section
variable {s t u : State}

/-! ## The radio's state after a DRIVER step -/

/-- A DRIVER step leaves the radio's state alone, takes it to `Enabling` or `Disabled`, or starts the packet at the pointer. -/
theorem driverStep_radioState (h : driverStep s = .next t) :
    t.radio.rs = s.radio.rs ∨ t.radio.rs = .enabling ∨ t.radio.rs = .disabled ∨
      (s.radio.rs = .ready ∧ ∃ ptr, s.radio.packetptr = some ptr ∧ t.radio.rs = .transmitting (latchAt s ptr)) := by
  rcases driverStep_local_or_exec h with ⟨_, _, _, rfl⟩ | ⟨_, _, -, -, hx⟩
  · exact .inl rfl
  · rcases exec_radioState_cases hx with hsame | ⟨-, -, rfl⟩ | ⟨-, hrs, ptr, hp, rfl⟩ | ⟨-, -, rfl⟩
    · exact .inl hsame
    · exact .inr (.inl rfl)
    · exact .inr (.inr (.inr ⟨hrs, ptr, hp, rfl⟩))
    · exact .inr (.inr (.inl rfl))

/-- No DRIVER step ends a transmission. -/
theorem driverStep_ended (h : driverStep s = .next t) (ht : t.radio.rs = .ended) : s.radio.rs = .ended := by
  rcases driverStep_radioState h with hrs | hrs | hrs | ⟨-, _, -, hrs⟩ <;> rw [hrs] at ht
  · exact ht
  all_goals cases ht

theorem driverStep_params (h : driverStep s = .next t) : t.params = s.params := by
  rcases driverStep_effects h with ⟨_, _, _, rfl⟩ | ⟨_, i, _, -, -, -, rfl⟩
  · rfl
  · exact effect_params i s

/-- A DRIVER step keeps RAM canonical. -/
theorem driverStep_ram_wf (h : driverStep s = .next t) (hwf : Memory.wf s.ram = true) : Memory.wf t.ram = true := by
  rcases driverStep_effects h with ⟨_, _, _, rfl⟩ | ⟨_, i, _, -, -, -, rfl⟩
  · exact hwf
  · rw [State.setDrv_ram]
    rcases effect_ram_cases i s with hsame | ⟨a, d, -, hw⟩
    · rwa [hsame]
    · rw [hw]
      exact Memory.write_wf _ _ _ hwf

end

end Sys2Proof.Machine

namespace Sys2Proof.Safety

open Sys2Proof.Machine

section
variable {s t u : State}

/-! ## What the position says of the radio -/

theorem mainPosition_resting {n : Nat} (h : mainPosition s n = true) : s.radio.rs = .idle ∨ s.radio.rs = .disabled := by
  unfold mainPosition at h
  split at h <;>
    simp_all [unconfigured, configuredOnly, radioSteady]

/-- Outside `transmit` the radio rests; inside, the program is in its loop, the buffer is its operand, and its position tells. -/
theorem BlockSafe.resting_or_transmit (h : BlockSafe s) :
    (s.radio.rs = .idle ∨ s.radio.rs = .disabled) ∨
      s.drv.seq.proc = .transmit s.params.bufBase ∧ looping s = true ∧ transmitPosition s s.drv.seq.line = true := by
  have hpos := h.position
  unfold blockPosition at hpos
  split at hpos
  case h_1 => exact .inl (mainPosition_resting (Bool.and_eq_true_iff.mp hpos).2)
  case h_5 a hp =>
    simp only [Bool.and_eq_true, decide_eq_true_eq] at hpos
    obtain ⟨⟨⟨⟨_, hloop⟩, _⟩, rfl⟩, hat⟩ := hpos
    exact .inr ⟨hp, hloop, hat⟩
  all_goals simp_all [unconfigured, configuredOnly, radioSteady]

theorem BlockSafe.of_transmit {a : Word} (h : BlockSafe s) (hp : s.drv.seq.proc = .transmit a) :
    s.drv.callers = [⟨.main, 9, 0⟩] ∧ transmitPosition s s.drv.seq.line = true := by
  have hpos := h.position
  simp_all [blockPosition]

/-- `transmit` by the radio's state: the packet's pointer is written by the time the radio is ready. -/
theorem transmitPosition_ready {n : Nat} (h : transmitPosition s n = true) (hrs : s.radio.rs = .ready) :
    s.radio.packetptr = some s.params.bufBase := by
  unfold transmitPosition at h
  split at h <;> simp_all [radioSteady]

/-- At the line of `START` the radio is ready. -/
theorem transmitPosition_start (h : transmitPosition s 7 = true) : s.radio.rs = .ready := by
  simp_all [transmitPosition]

/-- A packet is being sent at line 8 only. -/
theorem transmitPosition_transmitting {n : Nat} {l : Latch} (h : transmitPosition s n = true)
    (hrs : s.radio.rs = .transmitting l) : n = 8 := by
  unfold transmitPosition at h
  split at h <;> simp_all [radioSteady]

/-- At line 8 the packet is being sent, or the radio has ended and says so. -/
theorem transmitPosition_sending (h : transmitPosition s 8 = true) :
    (∃ l, s.radio.rs = .transmitting l ∧ s.radio.eventsEnd = false) ∨
      s.radio.rs = .ended ∧ s.radio.eventsEnd = true := by
  simp only [transmitPosition] at h
  split at h <;> simp_all

/-! ## What the buffer holds, and the packet that `START` takes from it -/

theorem bufferHolds_iff {k : Nat} {final : Bool} : bufferHolds s k final = true ↔ ∀ j, j < k →
    (final = false ∧ j = 1) ∨
      some (Memory.read s.ram (s.params.bufBase.toNat + j)) = (encodeBytes s.params.name)[j]? := by
  simp [bufferHolds]

theorem bufferHolds_congr (hram : u.ram = s.ram) (hparams : u.params = s.params) (k : Nat) (final : Bool) :
    bufferHolds u k final = bufferHolds s k final := by
  simp only [bufferHolds, hram, hparams]

/-- The buffer holds the PDU. -/
def holdsPdu (s : State) : Bool := bufferHolds s (pduLength s.params.name) true

theorem holdsPdu_iff : holdsPdu s = true ↔ ∀ j, j < pduLength s.params.name →
    some (Memory.read s.ram (s.params.bufBase.toNat + j)) = (encodeBytes s.params.name)[j]? := by
  simp [holdsPdu, bufferHolds_iff]

/-- The configured radio's `MAXLEN` is 37. -/
theorem maxlen_of_blockConfigured (h : s.radio.blockConfigured = true) : s.radio.maxlen = 37 := by
  have words := Radio.blockConfigured_iff.mp h
  simp only [Radio.configWords, blockConfigWords, List.cons.injEq] at words
  obtain ⟨-, -, -, hpcnf1, -⟩ := words
  exact (startLatchesThePacket s).2.2.2 hpcnf1

/-- With the PDU in the buffer, what `START` latches there is the PDU: its length byte says `11 + n`, within `MAXLEN`. -/
theorem latchAt_bytes_eq_pdu (hbuf : holdsPdu s = true) (hconf : s.radio.blockConfigured = true)
    (hfit : nameFits s.params.name = true) : (latchAt s s.params.bufBase).bytes = encodeBytes s.params.name := by
  have hread := holdsPdu_iff.mp hbuf
  have hn := (nameFits_iff _).mp hfit
  have hlen := pduLength_eq s.params.name
  have hbyte : Memory.read s.ram (s.params.bufBase.toNat + 1) = BitVec.ofNat 8 (11 + s.params.name.length) := by
    have h1 := hread 1 (by omega)
    rw [encodeBytes_eq_pduBytes] at h1
    exact Option.some.inj h1
  have hpayload : payloadLength s s.params.bufBase = 11 + s.params.name.length := by
    rw [payloadLength, hbyte, maxlen_of_blockConfigured hconf, BitVec.toNat_ofNat]
    omega
  apply List.ext_getElem?
  intro j
  have hcount : 2 + (11 + s.params.name.length) = pduLength s.params.name := by omega
  rw [latchAt, hpayload, hcount]
  rcases Nat.lt_or_ge j (pduLength s.params.name) with hj | hj
  · rw [Memory.readBytes_getElem? _ _ _ _ hj, hread j hj]
  · rw [List.getElem?_eq_none (by simpa using hj), List.getElem?_eq_none (by rwa [encodeBytes_length])]

theorem holdsPdu_congr (hram : u.ram = s.ram) (hparams : u.params = s.params) : holdsPdu u = holdsPdu s := by
  simp only [holdsPdu, bufferHolds_congr hram hparams, hparams]

/-- Outside `encode` a buffer that holds the PDU meets what the output says of it. -/
theorem bufferProgress_of_holdsPdu (h : holdsPdu s = true) (hp : ∀ name, s.drv.seq.proc ≠ .encode name) :
    bufferProgress s = true := by
  rw [holdsPdu] at h
  unfold bufferProgress
  split
  case h_3 name hname => exact absurd hname (hp name)
  all_goals simp [h]
  split <;> rfl

theorem holdsPdu_of_transmit {a : Word} (h : BlockOutput s) (hp : s.drv.seq.proc = .transmit a) : holdsPdu s = true := by
  simpa only [holdsPdu, bufferProgress, hp] using h.buffer

theorem latchIsPdu_iff : latchIsPdu s = true ↔ ∀ l, s.radio.rs = .transmitting l → l.bytes = encodeBytes s.params.name := by
  cases hrs : s.radio.rs <;> simp [latchIsPdu, hrs]

theorem looping_facts (h : looping s = true) : s.radio.blockConfigured = true ∧ nameFits s.params.name = true ∧
    ∃ i c, s.drv.iter = some i ∧ s.drv.txCount = some c := by
  simp only [looping, bufferKnown, Bool.and_eq_true, Option.isSome_iff_exists] at h
  obtain ⟨⟨⟨⟨⟨-, hconf⟩, -⟩, -, hfit⟩, i, hi⟩, c, hc⟩ := h
  exact ⟨hconf, hfit, i, c, hi, hc⟩

/-- After a DRIVER step the packet in flight is the PDU: `START` takes it from the buffer. -/
theorem latchIsPdu_of_driverStep (hs : BlockSafe s) (h : BlockOutput s) (hd : driverStep s = .next u) :
    latchIsPdu u = true := by
  rw [latchIsPdu_iff, driverStep_params hd]
  intro l hl
  rcases driverStep_radioState hd with hrs | hrs | hrs | ⟨hready, ptr, hptr, hrs⟩ <;> rw [hrs] at hl
  · exact latchIsPdu_iff.mp h.latch l hl
  · cases hl
  · cases hl
  · cases hl
    rcases hs.resting_or_transmit with hrest | ⟨hp, hloop, hat⟩
    · simp [hready] at hrest
    · obtain ⟨hconf, hfit, -⟩ := looping_facts hloop
      obtain rfl : s.params.bufBase = ptr := Option.some.inj ((transmitPosition_ready hat hready).symm.trans hptr)
      exact latchAt_bytes_eq_pdu (holdsPdu_of_transmit h hp) hconf hfit

/-! ## Steps that leave the counts -/

/-- The frames sent, the calls counted and the iterations reported, by position. -/
def counts (s : State) : Nat × Nat × Nat := (framesSent s, callsCounted s, reportsPassed s)

/-- The counts depend on the position, the iteration, and at the second wait of `transmit` on whether the radio has ended. -/
theorem counts_congr (hseq : u.drv.seq = s.drv.seq) (hiter : u.drv.iter = s.drv.iter)
    (hrs : ∀ a, s.drv.seq.proc = .transmit a → s.drv.seq.line = 8 → (u.radio.rs = .ended ↔ s.radio.rs = .ended)) :
    counts u = counts s := by
  simp only [counts, framesSent, callsCounted, reportsPassed, iterationsDone, hseq, hiter]
  congr 1
  split
  · rfl
  · rename_i a hp
    by_cases hn : s.drv.seq.line = 8
    · simp only [hrs a hp hn]
    · simp only [hn, false_and]
  · rfl
  · rfl

theorem bufferProgress_congr (h : SameLedger s u) (hseq : u.drv.seq = s.drv.seq) : bufferProgress u = bufferProgress s := by
  simp only [bufferProgress, bufferHolds_congr h.ram h.params, h.params, hseq]

/-- A step that keeps the counts, and what they count, keeps the output if it keeps what the output says of RAM and the latch. -/
theorem BlockOutput.of_counts (h : BlockOutput s) (hparams : u.params = s.params) (hair : u.air = s.air) (hlog : u.log = s.log)
    (htx : u.drv.txCount = s.drv.txCount) (hwf : Memory.wf u.ram = true) (hlatch : latchIsPdu u = true)
    (hbuf : bufferProgress u = true) (hcounts : counts u = counts s)
    (hstart : u.drv.seq ≠ ⟨.main, 1, 0⟩ → s.drv.seq ≠ ⟨.main, 1, 0⟩) : BlockOutput u := by
  simp only [counts, Prod.mk.injEq] at hcounts
  obtain ⟨hframes, hcalls, hreports⟩ := hcounts
  exact {
    canonical := hwf
    buffer := hbuf
    latch := hlatch
    air := by rw [hair, hparams, hframes, h.air]
    counter := fun hq => by rw [htx, hcalls, h.counter (hstart hq)]
    reports := by rw [hlog, hreports]; exact h.reports }

theorem BlockOutput.of_sameLedger (h : BlockOutput s) (hk : SameLedger s u) (hlatch : latchIsPdu u = true)
    (hbuf : bufferProgress u = true) (hcounts : counts u = counts s)
    (hstart : u.drv.seq ≠ ⟨.main, 1, 0⟩ → s.drv.seq ≠ ⟨.main, 1, 0⟩) : BlockOutput u :=
  h.of_counts hk.params hk.air hk.log hk.txCount (hk.ram ▸ h.canonical) hlatch hbuf hcounts hstart

/-- A step that leaves the DRIVER where it is and produces nothing keeps the output. -/
theorem BlockOutput.of_stays (h : BlockOutput s) (hk : SameLedger s u) (hlatch : latchIsPdu u = true)
    (hseq : u.drv.seq = s.drv.seq)
    (hrs : ∀ a, s.drv.seq.proc = .transmit a → s.drv.seq.line = 8 → (u.radio.rs = .ended ↔ s.radio.rs = .ended)) :
    BlockOutput u :=
  h.of_sameLedger hk hlatch (bufferProgress_congr hk hseq ▸ h.buffer) (counts_congr hseq hk.iter hrs) (hseq ▸ id)

/-! ## The procedures that run straight through -/

/-- A step of a procedure that runs straight through keeps the output where going on and returning keep the counts. -/
theorem BlockOutput.of_straight {q : Seq} (h : BlockOutput s) (hs : BlockSafe s) (hd : driverStep s = .next u)
    (hp : s.drv.seq.proc.isStraight = true) (hcallers : s.drv.callers = [q])
    (hrs : ∀ a, s.drv.seq.proc = .transmit a → s.drv.seq.line ≠ 8)
    (moves : SameLedger s u → (u.drv.seq = s.drv.seq.next ∨ s.drv.seq.line = s.drv.seq.proc.returnLine ∧ u.drv.seq = q) →
      bufferProgress u = true ∧ counts u = counts s) : BlockOutput u := by
  have hlatch := latchIsPdu_of_driverStep hs h hd
  have hstart : u.drv.seq ≠ ⟨.main, 1, 0⟩ → s.drv.seq ≠ ⟨.main, 1, 0⟩ := fun _ hq => by
    rw [hq] at hp
    cases hp
  obtain ⟨hk, hm⟩ := driverStep_straight hp hd
  cases hm with
  | stays hseq => exact h.of_stays hk hlatch hseq fun a ha hn => absurd hn (hrs a ha)
  | goesOn hseq =>
    obtain ⟨hbuf, hcounts⟩ := moves hk (.inl hseq)
    exact h.of_sameLedger hk hlatch hbuf hcounts hstart
  | returns hn hseq =>
    obtain ⟨hbuf, hcounts⟩ := moves hk (.inr ⟨hn, hseq q hcallers⟩)
    exact h.of_sameLedger hk hlatch hbuf hcounts hstart

theorem BlockOutput.of_configure (h : BlockOutput s) (hs : BlockSafe s) (hp : s.drv.seq.proc = .configure)
    (hd : driverStep s = .next u) : BlockOutput u := by
  have hcallers : s.drv.callers = [⟨.main, 3, 0⟩] := by
    have hpos := hs.position
    simp_all [blockPosition]
  refine h.of_straight hs hd (by rw [hp]; rfl) hcallers (by simp [hp]) fun hk hm => ?_
  rcases hm with hseq | ⟨-, hseq⟩ <;>
    simp [bufferProgress, counts, framesSent, callsCounted, reportsPassed, hseq, hp]

theorem BlockOutput.of_timerInit (h : BlockOutput s) (hs : BlockSafe s) (hp : s.drv.seq.proc = .timerInit)
    (hd : driverStep s = .next u) : BlockOutput u := by
  have hcallers : s.drv.callers = [⟨.main, 6, 0⟩] := by
    have hpos := hs.position
    simp_all [blockPosition]
  have hbuf : holdsPdu s = true := by simpa only [holdsPdu, bufferProgress, hp] using h.buffer
  refine h.of_straight hs hd (by rw [hp]; rfl) hcallers (by simp [hp]) fun hk hm => ?_
  rw [← holdsPdu_congr hk.ram hk.params] at hbuf
  rcases hm with hseq | ⟨-, hseq⟩ <;> refine ⟨bufferProgress_of_holdsPdu hbuf (by simp [hseq, hp]), ?_⟩ <;>
    simp [counts, framesSent, callsCounted, reportsPassed, hseq, hp]

theorem BlockOutput.of_delayMs {n : Word} (h : BlockOutput s) (hs : BlockSafe s) (hp : s.drv.seq.proc = .delayMs n)
    (hd : driverStep s = .next u) : BlockOutput u := by
  have hcallers : s.drv.callers = [⟨.main, 12, 0⟩] := by
    have hpos := hs.position
    simp_all [blockPosition]
  have hbuf : holdsPdu s = true := by simpa only [holdsPdu, bufferProgress, hp] using h.buffer
  refine h.of_straight hs hd (by rw [hp]; rfl) hcallers (by simp [hp]) fun hk hm => ?_
  rw [← holdsPdu_congr hk.ram hk.params] at hbuf
  rcases hm with hseq | ⟨-, hseq⟩ <;> refine ⟨bufferProgress_of_holdsPdu hbuf (by simp [hseq, hp]), ?_⟩ <;>
    simp [counts, framesSent, callsCounted, reportsPassed, iterationsDone, hk.iter, hseq, hp]

/-- The second wait of `transmit` goes on exactly once the frame is sent. -/
theorem BlockOutput.of_transmit_wait {a : Word} (h : BlockOutput s) (hs : BlockSafe s) (hp : s.drv.seq.proc = .transmit a)
    (hn : s.drv.seq.line = 8) (hd : driverStep s = .next u) : BlockOutput u := by
  have hlatch := latchIsPdu_of_driverStep hs h hd
  have hbuf : holdsPdu s = true := holdsPdu_of_transmit h hp
  have hl : lineAt s = .await .radioEnd := by simp only [lineAt, hp, hn, transmitLine]
  have hat : transmitPosition s 8 = true := hn ▸ (hs.of_transmit hp).2
  rw [driverStep_await hs.noFault hl] at hd
  rcases transmitPosition_sending hat with ⟨l, hrs, hflag⟩ | ⟨hrs, hflag⟩
  · have hflag' : s.eventFlag .radioEnd = false := hflag
    simp only [hflag', if_neg Bool.false_ne_true] at hd
    cases hd
    exact h.of_stays ⟨rfl, rfl, rfl, rfl, rfl, rfl⟩ hlatch rfl fun _ _ _ => Iff.rfl
  · have hflag' : s.eventFlag .radioEnd = true := hflag
    simp only [hflag', if_true] at hd
    cases hd
    have hnext : s.drv.seq.next = ⟨.transmit a, 9, 0⟩ := by simp [Seq.next, hp, hn]
    refine h.of_sameLedger ⟨rfl, rfl, rfl, rfl, rfl, rfl⟩ hlatch ?_ ?_ fun _ hq => by simp [hq] at hp
    · exact bufferProgress_of_holdsPdu hbuf (by simp [hp])
    · simp [counts, framesSent, callsCounted, reportsPassed, iterationsDone, hnext, hp, hn, hrs]

/-- The frame of the call counts from `TxDone` at line 8, so the other lines of `transmit` keep the counts. -/
theorem BlockOutput.of_transmit {a : Word} (h : BlockOutput s) (hs : BlockSafe s) (hp : s.drv.seq.proc = .transmit a)
    (hd : driverStep s = .next u) : BlockOutput u := by
  by_cases hn : s.drv.seq.line = 8
  · exact h.of_transmit_wait hs hp hn hd
  obtain ⟨hcallers, hat⟩ := hs.of_transmit hp
  have hbuf := holdsPdu_of_transmit h hp
  refine h.of_straight hs hd (by rw [hp]; rfl) hcallers (fun _ _ => hn) fun hk hm => ?_
  rw [← holdsPdu_congr hk.ram hk.params] at hbuf
  rcases hm with hseq | ⟨hlast, hseq⟩
  · have hnext : s.drv.seq.next = ⟨.transmit a, s.drv.seq.line + 1, 0⟩ := by simp [Seq.next, hp]
    have hsent : ¬(s.drv.seq.line = 7 ∧ u.radio.rs = .ended) := by
      rintro ⟨h7, hended⟩
      have hready := transmitPosition_start (h7 ▸ hat)
      rw [driverStep_ended hd hended] at hready
      cases hready
    have hlater : 9 ≤ s.drv.seq.line + 1 ↔ 9 ≤ s.drv.seq.line := by omega
    refine ⟨bufferProgress_of_holdsPdu hbuf (by simp [hseq, hp]), ?_⟩
    simp [counts, framesSent, callsCounted, reportsPassed, iterationsDone, hk.iter, hseq, hnext, hp, hn, hsent, hlater]
  · have hlast' : s.drv.seq.line = 10 := by rw [hlast, hp]; rfl
    refine ⟨bufferProgress_of_holdsPdu hbuf (by simp [hseq]), ?_⟩
    simp [counts, framesSent, callsCounted, reportsPassed, iterationsDone, hk.iter, hseq, hp, hlast']

/-! ## `encode` -/

theorem bytesStored_encodeAt (name : List Byte) {k : Nat} (hk : k ≤ pduLength name + 1) :
    bytesStored name (encodeAt name k).line (encodeAt name k).sub = min k (pduLength name) ∧
      (9 ≤ (encodeAt name k).line ↔ pduLength name < k) := by
  have hlen := pduLength_eq name
  rcases Nat.lt_or_eq_of_le hk with hlt | rfl
  · rcases store_cases name (Nat.le_of_lt_succ hlt) with h | ⟨i, hi, rfl⟩ | rfl
    · have hmin : min k (pduLength name) = k := by omega
      rw [hmin, iff_false_right (by omega)]
      interval_cases k <;> exact ⟨rfl, by simp [encodeAt]⟩
    · rw [encodeAt_name name hi]
      simp only [bytesStored]
      omega
    · rw [encodeAt_lengthByte]
      simp [bytesStored]
  · rw [encodeAt_done]
    simp [bytesStored]

/-- During `encode` the output says of the buffer what the stores made so far have left in it. -/
theorem bufferProgress_encodeAt {k : Nat} (hq : s.drv.seq = encodeAt s.params.name k) (hk : k ≤ pduLength s.params.name + 1) :
    bufferProgress s = true ↔ Encoded s.ram s.params.bufBase.toNat s.params.name k := by
  obtain ⟨hbytes, hfinal⟩ := bytesStored_encodeAt s.params.name hk
  simp only [bufferProgress, hq, encodeAt_proc, bufferHolds_iff, hbytes, hfinal, Encoded, lt_min_iff, and_imp,
    decide_eq_false_iff_not, not_lt, and_comm (b := _ = 1)]

/-- A store of `encode` extends what the buffer holds. -/
theorem BlockOutput.of_encode_store {k : Nat} (h : BlockOutput s) (hs : BlockSafe s)
    (hq : s.drv.seq = encodeAt s.params.name k) (hk : k ≤ pduLength s.params.name) (hfit : nameFits s.params.name = true)
    (hd : driverStep s = .next u) : BlockOutput u := by
  have hlatch := latchIsPdu_of_driverStep hs h hd
  obtain ⟨haddr, hin⟩ := storeAddr_placed hs.placed ((nameFits_iff _).mp hfit) hk
  have hx := (driverStep_issue (lineAt_encodeAt hq hk) (decodeEncodeRoundTrip _ hin)).symm.trans hd
  rcases execStb_cases _ _ _ _ hx with ⟨m, rfl⟩ | ⟨-, -, -, rfl⟩
  · exact h.of_stays (.raise m s) hlatch (by simp) (by simp [hq, encodeAt_proc])
  · have hnext : s.drv.seq.next = encodeAt s.params.name (k + 1) := by rw [hq, encodeAt_next hk]
    have hbuf := (bufferProgress_encodeAt hq (Nat.le_succ_of_le hk)).mp h.buffer
    rw [dataByte_byteData, haddr] at *
    refine h.of_counts rfl rfl rfl rfl (Memory.write_wf _ _ _ h.canonical) hlatch ?_ ?_ ?_
    · exact Iff.mpr (bufferProgress_encodeAt (k := k + 1) (by exact hnext) (Nat.succ_le_succ hk)) (hbuf.write hk h.canonical)
    · simp [counts, framesSent, callsCounted, reportsPassed, hq, encodeAt_proc]
    · intro _ hmain
      have hproc := encodeAt_proc s.params.name k
      rw [← hq, hmain] at hproc
      cases hproc

/-- A return from `encode`, which leaves the counts, keeps the output if the buffer holds the PDU of an accepted name. -/
theorem BlockOutput.of_encode_return {d : Driver} (h : BlockOutput s) (hp : s.drv.seq.proc = .encode s.params.name)
    (hcallers : d.callers = [⟨.main, 4, 0⟩]) (htx : d.txCount = s.drv.txCount) (hi : d.iter = s.drv.iter)
    (hlatch : latchIsPdu (s.setDrv d).ret = true) (hbuf : nameFits s.params.name = true → holdsPdu s = true) :
    BlockOutput (s.setDrv d).ret := by
  obtain ⟨hseq, -⟩ := State.ret_to_caller (s.setDrv d) _ _ hcallers
  have hset : SameLedger s (s.setDrv d) := ⟨rfl, rfl, rfl, rfl, htx, hi⟩
  have hk := hset.trans (.ret _)
  rw [← holdsPdu_congr hk.ram hk.params, holdsPdu] at hbuf
  refine h.of_sameLedger hk hlatch ?_ ?_ fun _ hq => by simp [hq] at hp
  · cases hfit : nameFits s.params.name <;> simp_all [bufferProgress]
  · simp [counts, framesSent, callsCounted, reportsPassed, hseq, hp]

/-- Line 1 accepts or rejects the name, lines 2 to 8 store, line 9 returns. -/
theorem BlockOutput.of_encode {name : List Byte} (h : BlockOutput s) (hs : BlockSafe s)
    (hp : s.drv.seq.proc = .encode name) (hd : driverStep s = .next u) : BlockOutput u := by
  have hlatch := latchIsPdu_of_driverStep hs h hd
  have hpos : s.drv.callers = [⟨.main, 4, 0⟩] ∧ encodePosition s name s.drv.seq.line s.drv.seq.sub = true := by
    have hpos := hs.position
    simp_all [blockPosition]
  obtain ⟨hcallers, hat⟩ := hpos
  simp only [encodePosition, Bool.and_eq_true, decide_eq_true_eq] at hat
  obtain ⟨rfl, hat⟩ := hat
  split at hat
  case h_1 hn =>
    cases hfit : nameFits s.params.name with
    | true =>
      cases (driverStep_compute (lineAt_encode_accepts hp hn hfit)).symm.trans hd
      have hnext : s.drv.seq.next = ⟨.encode s.params.name, 2, 0⟩ := by
        simp [Seq.next, hp, hn, encodeSteps, encodeLineAfter]
      refine h.of_sameLedger (.setSeq _ s) hlatch ?_ ?_ fun _ hq => by simp [hq] at hp
      · simp [bufferProgress, hnext, bytesStored, bufferHolds]
      · simp [counts, framesSent, callsCounted, reportsPassed, hp]
    | false =>
      cases (driverStep_compute (lineAt_encode_rejects hp hn hfit)).symm.trans hd
      exact h.of_encode_return hp hcallers rfl rfl hlatch fun hfit' => by simp [hfit] at hfit'
  case h_2 hn =>
    cases (driverStep_compute (lineAt_encode_returns hp hn)).symm.trans hd
    refine h.of_encode_return hp hcallers rfl rfl hlatch fun _ => ?_
    simpa [holdsPdu, bufferProgress, hp, hn, bytesStored] using h.buffer
  case h_3 =>
    obtain ⟨hfit, hstb⟩ := Bool.and_eq_true_iff.mp hat
    obtain ⟨k, hk, hq⟩ := exists_encodeAt hstb
    exact h.of_encode_store hs (by rw [← hq, ← hp]) hk hfit hd

/-! ## `main` (R230) -/

section
variable (h : BlockOutput s) (hp : s.drv.seq.proc = .main)
include h hp

/-- From line 5 of `main` on, and at line 4 for an accepted name, the buffer holds the PDU. -/
theorem BlockOutput.holdsPdu_of_main (hn : 5 ≤ s.drv.seq.line ∨ s.drv.seq.line = 4 ∧ nameFits s.params.name = true) :
    holdsPdu s = true := by
  have hbuf := h.buffer
  simp only [bufferProgress, hp] at hbuf
  split at hbuf
  case h_4 hn' => simpa [holdsPdu, (hn.resolve_left (by omega)).2] using hbuf
  case h_5 => exact hbuf
  all_goals omega

/-- Line 1 sets the transmit count to 0. -/
theorem BlockOutput.of_main_start (hn : s.drv.seq.line = 1) :
    BlockOutput (s.setDrv { s.drv with txCount := some 0 }).advance := by
  have hnext : s.drv.seq.next = ⟨.main, 2, 0⟩ := by simp [Seq.next, hp, hn]
  have hair := h.air
  have hlog := h.reports
  simp only [framesSent, reportsPassed, hp, hn] at hair hlog
  exact {
    canonical := h.canonical
    buffer := by simp [bufferProgress, hnext]
    latch := h.latch
    air := by simpa [framesSent, hnext] using hair
    counter := fun _ => by simp [callsCounted, hnext]
    reports := by simpa [reportsPassed, hnext] using hlog }

/-- Line 9 counts a returned call of `transmit` (R232). -/
theorem BlockOutput.of_main_count {c : Word} (hn : s.drv.seq.line = 9) (hc : s.drv.txCount = some c) :
    BlockOutput (s.setDrv { s.drv with txCount := some (c + 1) }).advance := by
  have hnext : s.drv.seq.next = ⟨.main, 10, 0⟩ := by simp [Seq.next, hp, hn]
  have hair := h.air
  have hlog := h.reports
  have hcount := h.counter fun hq => by simp [hq] at hn
  simp only [framesSent, reportsPassed, callsCounted, hp, hn, hc] at hair hlog hcount
  exact {
    canonical := h.canonical
    buffer := bufferProgress_of_holdsPdu (h.holdsPdu_of_main hp (.inl (by omega))) (by simp [hp])
    latch := h.latch
    air := by simpa [framesSent, iterationsDone, hnext] using hair
    counter := fun _ => by
      obtain rfl := Option.some.inj hcount
      simp [callsCounted, iterationsDone, hnext, BitVec.ofNat_add]
    reports := by simpa [reportsPassed, iterationsDone, hnext] using hlog }

/-- Line 10 reports a count that is due, and the sink keeps the report or drops it (R233, R234). -/
theorem BlockOutput.of_main_report {c : Word} {log : List Report} (hn : s.drv.seq.line = 10)
    (hc : s.drv.txCount = some c)
    (hlog : log = s.log ∨ c.toNat % Config.reportEvery = 0 ∧ log = s.log ++ [⟨c⟩]) :
    BlockOutput ({ s with log := log } : State).advance := by
  have hnext : s.drv.seq.next = ⟨.main, 11, 0⟩ := by simp [Seq.next, hp, hn]
  have hair := h.air
  have hreports := h.reports
  have hcount := h.counter fun hq => by simp [hq] at hn
  simp only [framesSent, reportsPassed, callsCounted, hp, hn, hc] at hair hreports hcount
  have hnew : log.Sublist (reportsOffered (iterationsDone s + 1)) := by
    obtain rfl : c = BitVec.ofNat 32 (iterationsDone s + 1) := Option.some.inj hcount
    rw [reportsOffered_succ]
    rcases hlog with rfl | ⟨hdue, rfl⟩
    · exact hreports.trans (List.sublist_append_left _ _)
    · rw [if_pos hdue]
      exact hreports.append (List.Sublist.refl _)
  exact {
    canonical := h.canonical
    buffer := bufferProgress_of_holdsPdu (h.holdsPdu_of_main hp (.inl (by omega))) (by simp [hp])
    latch := h.latch
    air := by simpa [framesSent, iterationsDone, hnext] using hair
    counter := fun _ => by simpa [callsCounted, iterationsDone, hnext, hc] using hcount
    reports := by simpa [reportsPassed, iterationsDone, hnext] using hnew }

/-- `main` line by line (R230). -/
theorem BlockOutput.of_main (hs : BlockSafe s) (hd : driverStep s = .next u) : BlockOutput u := by
  have hlatch := latchIsPdu_of_driverStep hs h hd
  have hat : mainPosition s s.drv.seq.line = true := by
    have hpos := hs.position
    simp_all [blockPosition]
  have raised {m : FaultMark} (hu : driverStep s = .next (s.raise m)) : BlockOutput u := by
    cases hu.symm.trans hd
    exact h.of_stays (.raise m s) hlatch (by simp) (by simp [hp])
  have goes (hn : s.drv.seq.line ≠ 1) (hk : SameLedger s u) (hbuf : bufferProgress u = true) (hc : counts u = counts s) :
      BlockOutput u := h.of_sameLedger hk hlatch hbuf hc fun _ hq => hn (by rw [hq])
  have goesWithPdu (hn : 5 ≤ s.drv.seq.line ∨ s.drv.seq.line = 4 ∧ nameFits s.params.name = true)
      (hkept : u.params = s.params ∧ u.ram = s.ram ∧ u.air = s.air ∧ u.log = s.log ∧ u.drv.txCount = s.drv.txCount)
      (hproc : ∀ name, u.drv.seq.proc ≠ .encode name) (hc : counts u = counts s) : BlockOutput u := by
    obtain ⟨hparams, hram, hair, hlog, htx⟩ := hkept
    have hbuf := h.holdsPdu_of_main hp hn
    rw [← holdsPdu_congr hram hparams] at hbuf
    exact h.of_counts hparams hair hlog htx (hram ▸ h.canonical) hlatch (bufferProgress_of_holdsPdu hbuf hproc) hc
      fun _ hq => by simp [hq] at hn
  have hl : lineAt s = mainLine s s.drv.seq.line := by simp only [lineAt, hp]
  unfold mainLine at hl
  split at hl
  case h_1 hn =>
    cases (driverStep_compute hl).symm.trans hd
    exact h.of_main_start hp hn
  case h_2 hn =>
    cases (driverStep_of_issue hl rfl rfl).symm.trans hd
    refine goes (by omega) ⟨rfl, rfl, rfl, rfl, rfl, rfl⟩ (by simp [bufferProgress]) ?_
    simp [counts, framesSent, callsCounted, reportsPassed, hp, hn]
  case h_3 hn =>
    cases (driverStep_of_issue hl rfl rfl).symm.trans hd
    refine goes (by omega) ⟨rfl, rfl, rfl, rfl, rfl, rfl⟩ ?_ ?_
    · simp [bufferProgress, bytesStored, bufferHolds, Proc.firstLine]
    · simp [counts, framesSent, callsCounted, reportsPassed, hp, hn]
  case h_4 hn =>
    split at hl
    case h_1 => exact raised (driverStep_compute hl)
    case h_2 =>
      cases (driverStep_of_issue hl rfl rfl).symm.trans hd
      refine goes (by omega) ⟨rfl, rfl, rfl, rfl, rfl, rfl⟩ (by simp [bufferProgress]) ?_
      simp [counts, framesSent, callsCounted, reportsPassed, hp, hn]
    case h_3 hr =>
      have hfit : nameFits s.params.name = true := by simp_all [mainPosition, bufferKnown]
      cases (driverStep_compute hl).symm.trans hd
      refine goesWithPdu (.inr ⟨hn, hfit⟩) ⟨rfl, rfl, rfl, rfl, rfl⟩ (by simp [hp]) ?_
      simp [counts, framesSent, callsCounted, reportsPassed, Seq.next, hp, hn]
  case h_5 hn =>
    cases (driverStep_of_issue hl rfl rfl).symm.trans hd
    refine goesWithPdu (.inl (by omega)) ⟨rfl, rfl, rfl, rfl, rfl⟩ (by simp) ?_
    simp [counts, framesSent, callsCounted, reportsPassed, hp, hn]
  case h_6 hn =>
    cases (driverStep_compute hl).symm.trans hd
    refine goesWithPdu (.inl (by omega)) ⟨rfl, rfl, rfl, rfl, rfl⟩ (by simp [hp]) ?_
    simp [counts, framesSent, callsCounted, reportsPassed, iterationsDone, Seq.next, hp, hn]
  case h_7 hn =>
    split at hl
    case h_1 => exact raised (driverStep_compute hl)
    case h_2 =>
      split at hl <;> cases (driverStep_compute hl).symm.trans hd <;>
        refine goesWithPdu (.inl (by omega)) ⟨rfl, rfl, rfl, rfl, rfl⟩ (by simp [Seq.exit, hp]) ?_ <;>
        simp [counts, framesSent, callsCounted, reportsPassed, iterationsDone, Seq.next, Seq.exit, hp, hn]
  case h_8 hn =>
    split at hl
    case h_1 => exact raised (driverStep_compute hl)
    case h_2 =>
      cases (driverStep_of_issue hl rfl rfl).symm.trans hd
      refine goesWithPdu (.inl (by omega)) ⟨rfl, rfl, rfl, rfl, rfl⟩ (by simp) ?_
      simp [counts, framesSent, callsCounted, reportsPassed, iterationsDone, Proc.firstLine, hp, hn]
  case h_9 hn =>
    split at hl
    case h_1 => exact raised (driverStep_compute hl)
    case h_2 hc =>
      cases (driverStep_compute hl).symm.trans hd
      exact h.of_main_count hp hn hc
  case h_10 hn =>
    split at hl
    case h_1 => exact raised (driverStep_compute hl)
    case h_2 c hc =>
      split at hl <;> cases (driverStep_compute hl).symm.trans hd
      case isTrue hdue =>
        unfold State.emitReport
        split
        · exact h.of_main_report hp hn hc (.inr ⟨hdue, rfl⟩)
        · exact h.of_main_report hp hn hc (.inl rfl)
      case isFalse => exact h.of_main_report hp hn hc (.inl rfl)
  case h_11 hn =>
    cases (driverStep_of_issue hl rfl rfl).symm.trans hd
    refine goesWithPdu (.inl (by omega)) ⟨rfl, rfl, rfl, rfl, rfl⟩ (by simp) ?_
    simp [counts, framesSent, callsCounted, reportsPassed, iterationsDone, hp, hn]
  case h_12 hn =>
    split at hl
    case h_1 => exact raised (driverStep_compute hl)
    case h_2 i hi =>
      cases (driverStep_compute hl).symm.trans hd
      refine goesWithPdu (.inl (by omega)) ⟨rfl, rfl, rfl, rfl, rfl⟩ (by simp) ?_
      simp [counts, framesSent, callsCounted, reportsPassed, iterationsDone, hi, hp, hn]
  case h_13 =>
    simp only [driverStep, hl] at hd
    cases hd
    exact h

end

/-! ## The three agents -/

/-- Each step of the DRIVER, by the procedure it is in. -/
theorem BlockOutput.of_driverStep (h : BlockOutput s) (hs : BlockSafe s) (he : driverEnabled s = true)
    (hd : driverStep s = .next u) : BlockOutput u := by
  have hpos := hs.position
  cases hp : s.drv.seq.proc with
  | main => exact h.of_main hp hs hd
  | configure => exact h.of_configure hs hp hd
  | transmit a => exact h.of_transmit hs hp hd
  | encode name => exact h.of_encode hs hp hd
  | timerInit => exact h.of_timerInit hs hp hd
  | delayMs n => exact h.of_delayMs hs hp hd
  | halt => simp_all [blockPosition, driverEnabled]
  | foreign => simp_all [blockPosition]

/-- What a configured radio sends for the PDU is the block's frame (R177, R178). -/
theorem airFrame_eq_blockFrame (hconf : s.radio.blockConfigured = true) (name : List Byte) :
    s.radio.airFrame (encodeBytes name) = blockFrame name :=
  configuredRadioSendsTheFrame s.radio (encodeBytes name) hconf

/-- `TxDone` sends the frame of the PDU, in the iteration's call of `transmit` (R140). -/
theorem BlockOutput.of_txDone {l : Latch} (h : BlockOutput s) (hs : BlockSafe s) (hrs : s.radio.rs = .transmitting l) :
    BlockOutput (txDone l s) := by
  obtain ⟨hp, hloop, hat⟩ := hs.resting_or_transmit.resolve_left (by simp [hrs])
  have hn := transmitPosition_transmitting hat hrs
  have hframe : s.radio.airFrame l.bytes = blockFrame s.params.name := by
    rw [latchIsPdu_iff.mp h.latch l hrs, airFrame_eq_blockFrame (looping_facts hloop).1]
  have hafter : framesSent (txDone l s) = framesSent s + 1 := by
    simp [framesSent, txDone, iterationsDone, hp, hn, hrs]
  exact {
    canonical := h.canonical
    buffer := h.buffer
    latch := rfl
    air := by
      rw [hafter, List.replicate_succ']
      simp only [txDone, hframe, h.air]
    counter := h.counter
    reports := h.reports }

/-- A RADIO step sends the packet in flight, or sends nothing. -/
theorem BlockOutput.of_radioStep (h : BlockOutput s) (hs : BlockSafe s) (he : radioEnabled s = true) :
    BlockOutput (radioStep s) := by
  have sending {a : Word} (hp : s.drv.seq.proc = .transmit a) (hn : s.drv.seq.line = 8) :=
    transmitPosition_sending (hn ▸ (hs.of_transmit hp).2)
  rcases radioStep_cases he with ⟨hrs, hx⟩ | ⟨l, hrs, hx⟩ | ⟨hrs, hx⟩ <;> rw [hx]
  · exact h.of_stays ⟨rfl, rfl, rfl, rfl, rfl, rfl⟩ rfl rfl fun a hp hn => by simpa [hrs] using sending hp hn
  · exact h.of_txDone hs hrs
  · exact h.of_stays ⟨rfl, rfl, rfl, rfl, rfl, rfl⟩ rfl rfl fun a hp hn => by simpa [hrs] using sending hp hn

theorem BlockOutput.of_tick (h : BlockOutput s) : BlockOutput (tick s) := { h with }

theorem BlockOutput.of_passTurn (h : BlockOutput s) : BlockOutput s.passTurn := { h with }

end

/-- Settles O57: the DRIVER's step by its procedure, the RADIO's by what it sends; a tick and a passing turn produce nothing. -/
theorem everyStepKeepsBlockOutput : Obligations.EveryStepKeepsBlockOutput := by
  intro s t hs h hst
  obtain ⟨-, ⟨-, he, u, hu, rfl⟩ | ⟨-, he, rfl⟩ | ⟨-, -, rfl⟩ | rfl⟩ := step_cases s t hst
  · exact (h.of_driverStep hs he hu).of_passTurn
  · exact (h.of_radioStep hs he).of_passTurn
  · exact h.of_tick.of_passTurn
  · exact h.of_passTurn

end Sys2Proof.Safety

/-!
PROOFS. The delay timer (44_delay_timer.md): the register writes and the tasks, what a tick and a row of ticks do, and whole calls of
`timer_init` and `delay_ms`, on fixed turns and under weak fairness.
-/

namespace Sys2Proof.Machine

/-! ## The register writes and the tasks -/

/-- With the timer stopped the block's word is stored. -/
theorem timerConfigWrite_of_stopped {addr word : Word} {stored : Timer} {s : State} (hstop : s.timer.running = false) :
    timerConfigWrite addr word word stored s = .next ({ s with timer := stored }).advance := by
  simp only [timerConfigWrite, hstop, Bool.false_eq_true, ne_eq, not_true_eq_false, if_false]

/-- A configuration write obeys its rule: the timer must be stopped (R215), then the word is checked (R99), then it is stored. -/
theorem timerConfigRule_of_timerConfigWrite {i : Word → Instr} {addr word : Word} {after : Timer → Timer}
    (h : ∀ data s, ∃ stored, exec (i data) s = timerConfigWrite addr word data stored s ∧
      (data = word → stored = after s.timer)) : Claims.timerConfigRule i addr word after := by
  intro s
  refine ⟨fun hf hrun d => ?_, fun hf hstop d hd => ?_, fun hstop => ?_⟩
  · obtain ⟨_, hx, -⟩ := h d s
    exact faults_of_fail hf (hx.trans (if_pos hrun))
  · obtain ⟨_, hx, -⟩ := h d s
    exact faults_of_fail hf (hx.trans ((if_neg (by simp [hstop])).trans (if_pos hd)))
  · obtain ⟨stored, hx, hstored⟩ := h word s
    rw [hx, timerConfigWrite_of_stopped hstop, hstored rfl]

/-- `BITMODE` 3 selects 32 bits (R45). -/
theorem Timer.width_of_bitmode {tm : Timer} (hb : tm.bitmode = 3) : tm.width = 32 := by
  simp only [Timer.width, hb]; decide

/-- Settles O32: each write by the rule of the configuration writes, each field by evaluation. -/
theorem timerConfigWrites : Obligations.TimerConfigWrites := by
  refine ⟨?_, ?_, ?_, fun r => ⟨fun h => ?_, Timer.width_of_bitmode, fun h => ?_⟩⟩
  case refine_4 => simp only [Timer.countsTicks, h]; decide
  case refine_5 => simp only [Timer.tickHz, h]; decide
  all_goals exact timerConfigRule_of_timerConfigWrite fun _ _ => ⟨_, rfl, by rintro rfl; rfl⟩

/-- A timer task triggered with 1 takes effect (R100). -/
theorem timerTask_taskWord (addr : Word) (started : Timer) (s : State) :
    timerTask addr taskWord started s = .next ({ s with timer := started }).advance :=
  if_neg (not_not.mpr rfl)

/-- Settles O33: each task is triggered with 1, and the write of CC0 has no check. -/
theorem timerTasksAndCompareTarget : Obligations.TimerTasksAndCompareTarget := fun s =>
  ⟨timerTask_taskWord addrTimerTasksClear _ s, timerTask_taskWord addrTimerTasksStart _ s,
    timerTask_taskWord addrTimerTasksStop _ s, fun _ => rfl⟩

/-! ## Ticks (R212) -/

/-- The timer after one tick. -/
def Timer.ticked (tm : Timer) : Timer :=
  { tm with count := tm.nextCount, eventsCompare0 := tm.eventsCompare0 || tm.tickReaches }

/-- How many ticks from 0 bring the counter to a target: the target, and for 0 a whole turn of the counter (R223). -/
def ticksToTarget (cc : Word) : Nat := if cc = 0 then 2 ^ 32 else cc.toNat

section
variable {tm : Timer} {m : Nat}

theorem tick_iterate (m : Nat) (s : State) : tick^[m] s = { s with timer := Timer.ticked^[m] s.timer } := by
  induction m with
  | zero => rfl
  | succ m ih => rw [Function.iterate_succ_apply', Function.iterate_succ_apply', ih]; rfl

/-- A tick of a 32-bit timer adds 1 to the counter and compares the whole target. -/
theorem Timer.ticked_of_bitmode (hb : tm.bitmode = 3) : tm.ticked =
    { tm with count := tm.count + 1, eventsCompare0 := tm.eventsCompare0 || decide (tm.count + 1 = tm.cc) } := by
  have hcount : tm.nextCount = tm.count + 1 := by
    apply BitVec.eq_of_toNat_eq
    simp [Timer.nextCount, Timer.width_of_bitmode hb, BitVec.toNat_add]
  have hreach : tm.tickReaches = decide (tm.count + 1 = tm.cc) := by
    rw [Timer.tickReaches, hcount, Timer.width_of_bitmode hb, Nat.mod_eq_of_lt tm.cc.isLt]
    simp only [BitVec.toNat_inj]
  rw [Timer.ticked, hcount, hreach]

/-- Settles O34: the TIMER's turn is the tick of a 32-bit timer. -/
theorem tickCountsAndCompares : Obligations.TickCountsAndCompares := by
  intro s hf ha hrun hb
  rw [step_timer hf ha hrun, ← Timer.ticked_of_bitmode hb]
  rfl

theorem ticksToTarget_pos (cc : Word) : 0 < ticksToTarget cc := by
  unfold ticksToTarget
  split
  · decide
  · next h => exact Nat.pos_of_ne_zero fun h0 => h (BitVec.eq_of_toNat_eq h0)

theorem ticksToTarget_le (cc : Word) : ticksToTarget cc ≤ 2 ^ 32 := by
  unfold ticksToTarget
  split
  · exact le_rfl
  · exact cc.isLt.le

/-- Within one turn of the counter, the `m`-th tick from 0 reaches the target exactly if it is the tick that is due. -/
theorem count_eq_target_iff (cc : Word) (h0 : 0 < m) (hm : m ≤ 2 ^ 32) : BitVec.ofNat 32 m = cc ↔ ticksToTarget cc = m := by
  have hlt := cc.isLt
  have hzero : cc = 0 ↔ cc.toNat = 0 := BitVec.toNat_inj.symm
  rw [← BitVec.toNat_inj, BitVec.toNat_ofNat, ticksToTarget]
  split
  · next h => rw [hzero.mp h]; omega
  · next h => have := mt hzero.mpr h; omega

theorem ticksToTarget_ofNat (h0 : 0 < m) (hm : m < 2 ^ 32) : ticksToTarget (BitVec.ofNat 32 m) = m :=
  (count_eq_target_iff _ h0 hm.le).mp rfl

/-- From 0 and a clear event, `m` ticks count to `m` and set the event once they reach the target. -/
theorem Timer.ticked_iterate (hb : tm.bitmode = 3) (hcount : tm.count = 0) (hclear : tm.eventsCompare0 = false)
    (hm : m ≤ 2 ^ 32) : Timer.ticked^[m] tm =
      { tm with count := BitVec.ofNat 32 m, eventsCompare0 := decide (ticksToTarget tm.cc ≤ m) } := by
  induction m with
  | zero =>
    have hnone : decide (ticksToTarget tm.cc ≤ 0) = false := by simpa using (ticksToTarget_pos tm.cc).ne'
    rw [Function.iterate_zero_apply, hnone, ← hclear, show BitVec.ofNat 32 0 = tm.count from hcount.symm]
  | succ m ih =>
    have hnext : BitVec.ofNat 32 m + 1 = BitVec.ofNat 32 (m + 1) := (BitVec.ofNat_add m 1).symm
    have hdue := count_eq_target_iff tm.cc (Nat.succ_pos m) hm
    rw [Function.iterate_succ_apply', ih (by omega), Timer.ticked_of_bitmode (by exact hb)]
    simp only [hnext, hdue, ← Bool.decide_or, Nat.le_succ_iff]

end

/-- Settles O35: by induction on the ticks. -/
theorem compareComesAfterExactlyTheTarget : Obligations.CompareComesAfterExactlyTheTarget := by
  intro s m hb hcount hclear hm
  rw [tick_iterate, Timer.ticked_iterate hb hcount hclear hm]
  exact ⟨rfl, rfl⟩

/-! ## The lines of `timer_init` and `delay_ms` (R220, R221) -/

/-- A running DRIVER has a step at `s`, and it leads to `t`. -/
def DriverGoesTo (s t : State) : Prop := lineAt s ≠ .exit ∧ driverStep s = .next t

/-- `s` taken to a line of a procedure, with what the two timer procedures change besides the turns: `n_ms`, `v` and the timer. -/
def State.timing (s : State) (p : Proc) (line : Nat) (ms v : Option Word) (tm : Timer) : State :=
  { s with drv := { s.drv with nMs := ms, v := v, seq := ⟨p, line, 0⟩ }, timer := tm }

section
variable {s t : State} {p : Proc} {n : Word} {ms v : Option Word} {tm : Timer}

theorem DriverGoesTo.of_issue {i : Instr} (hl : lineAt s = .issue i) (he : encodable i = true) (hx : exec i s = .next t) :
    DriverGoesTo s t :=
  ⟨by rw [hl]; exact nofun, driverStep_of_issue hl he hx⟩

theorem DriverGoesTo.of_compute (hl : lineAt s = .compute t) : DriverGoesTo s t :=
  ⟨by rw [hl]; exact nofun, driverStep_compute hl⟩

theorem DriverGoesTo.of_await {e : Event} (hf : s.fault = none) (hl : lineAt s = .await e)
    (ht : (if s.eventFlag e then ({ s with drv := { s.drv with v := some 1 } }).advance
      else { s with drv := { s.drv with v := some 0 } }) = t) : DriverGoesTo s t :=
  ⟨by rw [hl]; exact nofun, by rw [driverStep_await hf hl, ht]⟩

/-- The DRIVER's turn takes its step. -/
theorem DriverGoesTo.step (h : DriverGoesTo s t) (hmoves : Claims.driverMoves s) : step s = .next t.passTurn := by
  obtain ⟨hf, ha, hm⟩ := hmoves
  obtain ⟨hl, hx⟩ := h
  rw [step_driver hf ha (Safety.enabled_driver hm hl), hx]
  rfl

theorem timerInit_mode (hstop : tm.running = false) :
    DriverGoesTo (s.timing .timerInit 1 ms v tm) (s.timing .timerInit 2 ms v { tm with mode := wordTimerMode }) :=
  .of_issue rfl rfl (timerConfigWrite_of_stopped hstop)

theorem timerInit_bitmode (hstop : tm.running = false) :
    DriverGoesTo (s.timing .timerInit 2 ms v tm) (s.timing .timerInit 3 ms v { tm with bitmode := wordTimerBitmode }) :=
  .of_issue rfl rfl (timerConfigWrite_of_stopped hstop)

theorem timerInit_prescaler (hstop : tm.running = false) :
    DriverGoesTo (s.timing .timerInit 3 ms v tm) (s.timing .timerInit 4 ms v { tm with prescaler := wordTimerPrescaler }) :=
  .of_issue rfl rfl (timerConfigWrite_of_stopped hstop)

theorem timerInit_return : DriverGoesTo (s.timing .timerInit 4 ms v tm)
    ((s.timing .timerInit 4 ms v tm).setDrv { (s.timing .timerInit 4 ms v tm).drv with timerReady := true }).ret :=
  .of_compute rfl

theorem delay_entry (hready : s.drv.timerReady = true) :
    DriverGoesTo (s.timing (.delayMs n) 0 ms v tm) (s.timing (.delayMs n) 1 ms v tm) :=
  .of_compute (if_pos hready)

/-- The target of a delay, in ticks (R222). -/
def delayTarget (n : Word) : Word := BitVec.ofNat 32 (n.toNat * 1000)

theorem compareTarget_of_lt (hfit : n.toNat * 1000 < 2 ^ 32) : compareTarget n = some (delayTarget n) :=
  if_neg (not_le.mpr hfit)

theorem delay_argument (hfit : n.toNat * 1000 < 2 ^ 32) :
    DriverGoesTo (s.timing (.delayMs n) 1 ms v tm) (s.timing (.delayMs n) 2 (some n) v tm) :=
  .of_compute (by simp only [lineAt, State.timing, delayMsLine, compareTarget_of_lt hfit]; rfl)

theorem delay_clear :
    DriverGoesTo (s.timing (.delayMs n) 2 ms v tm) (s.timing (.delayMs n) 3 ms v { tm with count := 0 }) :=
  .of_issue rfl rfl (timerTask_taskWord addrTimerTasksClear _ _)

/-- Line 3 takes the target from `n_ms`. -/
theorem delay_target (hfit : n.toNat * 1000 < 2 ^ 32) : DriverGoesTo (s.timing (.delayMs n) 3 (some n) v tm)
    (s.timing (.delayMs n) 4 (some n) v { tm with cc := delayTarget n }) :=
  .of_issue (i := .wrTimerCc0 (delayTarget n))
    (by simp only [lineAt, State.timing, delayMsLine, compareTarget_of_lt hfit]) rfl rfl

theorem delay_clearEvent :
    DriverGoesTo (s.timing (.delayMs n) 4 ms v tm) (s.timing (.delayMs n) 5 ms v { tm with eventsCompare0 := false }) :=
  .of_issue rfl rfl (eventClearsWriteZero _).2.2

theorem delay_start :
    DriverGoesTo (s.timing (.delayMs n) 5 ms v tm) (s.timing (.delayMs n) 6 ms v { tm with running := true }) :=
  .of_issue rfl rfl (timerTask_taskWord addrTimerTasksStart _ _)

theorem delay_poll_set (hf : s.fault = none) (hset : tm.eventsCompare0 = true) :
    DriverGoesTo (s.timing (.delayMs n) 6 ms v tm) (s.timing (.delayMs n) 7 ms (some 1) tm) :=
  .of_await (e := .timerCompare0) hf rfl (if_pos hset)

theorem delay_poll_clear (hf : s.fault = none) (hclear : tm.eventsCompare0 = false) :
    DriverGoesTo (s.timing (.delayMs n) 6 ms v tm) (s.timing (.delayMs n) 6 ms (some 0) tm) :=
  .of_await (e := .timerCompare0) hf rfl (if_neg (ne_true_of_eq_false hclear))

theorem delay_stop :
    DriverGoesTo (s.timing (.delayMs n) 7 ms v tm) (s.timing (.delayMs n) 8 ms v { tm with running := false }) :=
  .of_issue rfl rfl (timerTask_taskWord addrTimerTasksStop _ _)

theorem delay_return : DriverGoesTo (s.timing (.delayMs n) 8 ms v tm) (s.timing (.delayMs n) 8 ms v tm).ret :=
  .of_compute rfl

/-- The timer as `delay_ms` starts it: the counter at 0, the target written, the event clear (R221 lines 2 to 5). -/
def Timer.started (tm : Timer) (cc : Word) : Timer :=
  { tm with count := 0, cc := cc, eventsCompare0 := false, running := true }

/-- A started 32-bit timer after `m` ticks (R223). -/
theorem Timer.started_ticked {cc : Word} {m : Nat} (hb : tm.bitmode = 3) (hm : m ≤ 2 ^ 32) : Timer.ticked^[m] (tm.started cc) =
    { tm.started cc with count := BitVec.ofNat 32 m, eventsCompare0 := decide (ticksToTarget cc ≤ m) } :=
  Timer.ticked_iterate hb rfl rfl hm

end

/-- The RADIO's step changes the radio and the air trace only. -/
theorem radioStep_eq (s : State) : radioStep s = { s with radio := (radioStep s).radio, air := (radioStep s).air } := by
  unfold radioStep
  split <;> rfl

end Sys2Proof.Machine

namespace Sys2Proof.Safety

open Sys2Proof.Machine

/-! ## Whole calls of `timer_init` and `delay_ms` under fixed turns (R220, R221) -/

section
variable {s t : State} {p : Proc} {line line' k m : Nat} {ms v ms' v' : Option Word} {tm tm' : Timer} {ts : List Agent}

/-- A state at a line of a procedure is that line's with its own turns, `n_ms`, `v` and timer. -/
theorem eq_timing (hq : s.drv.seq = ⟨p, line, 0⟩) (hts : s.turns = ts) :
    s = (withTurns s ts 0).timing p line s.drv.nMs s.drv.v s.timer := by
  rw [State.timing, withTurns, ← hq, ← hts]
  rfl

/-- A run goes on after a line of a timer procedure. -/
theorem run_timing (hf : s.fault = none) (hm : s.drv.mode = .running)
    (h : DriverGoesTo ((withTurns s (.driver :: ts) k).timing p line ms v tm)
      ((withTurns s (.driver :: ts) k).timing p line' ms' v' tm')) :
    Claims.runSteps (m + 1) ((withTurns s (.driver :: ts) k).timing p line ms v tm) =
      Claims.runSteps m ((withTurns s ts (k + 1)).timing p line' ms' v' tm') :=
  run_of_next m (h.step ⟨hf, rfl, hm⟩)

/-- The turn of a running TIMER ticks. -/
theorem step_timing_tick (hf : s.fault = none) (ha : s.nextAgent = .timer) (hrun : tm.running = true) :
    step (s.timing p line ms v tm) = .next (s.passTurn.timing p line ms v tm.ticked) :=
  step_timer (s := s.timing p line ms v tm) hf ha hrun

/-- A run goes on after the ticks of the TIMER's next turns. -/
theorem run_ticks (hf : s.fault = none) (hrun : tm.running = true) (j : Nat) :
    Claims.runSteps (m + j) ((withTurns s (List.replicate j .timer ++ ts) k).timing p line ms v tm) =
      Claims.runSteps m ((withTurns s ts (k + j)).timing p line ms v (Timer.ticked^[j] tm)) := by
  induction j generalizing k tm with
  | zero => rfl
  | succ j ih =>
    rw [show k + (j + 1) = k + 1 + j by omega, Function.iterate_succ_apply]
    have first := step_timing_tick (s := withTurns s (.timer :: (List.replicate j .timer ++ ts)) k) (p := p) (line := line)
      (ms := ms) (v := v) hf rfl hrun
    exact (run_of_next _ first).trans (ih (k := k + 1) (tm := tm.ticked) hrun)

end

/-- Settles O36: lines 1 to 3 store into the stopped timer, line 4 returns. -/
theorem timerInitTakesFourSteps : Obligations.TimerInitTakesFourSteps := by
  intro s caller callers rest hf hm hq hcallers hstop hts
  have last (tm : Timer) : step ((withTurns s (.driver :: rest) 3).timing .timerInit 4 s.drv.nMs s.drv.v tm) = .next
      { s with
        drv := { s.drv with timerReady := true, seq := caller, callers := callers }
        timer := tm
        turns := rest
        clock := s.clock + 4 } := by
    rw [(timerInit_return (s := withTurns s (.driver :: rest) 3)).step ⟨hf, rfl, hm⟩]
    simp [State.ret, State.timing, State.setDrv, withTurns, State.passTurn, hcallers]
  refine Eq.trans (congrArg (Claims.runSteps 4) (eq_timing hq hts)) ?_
  refine Eq.trans (run_timing hf hm (timerInit_mode hstop)) ?_
  refine Eq.trans (run_timing hf hm (timerInit_bitmode hstop)) ?_
  refine Eq.trans (run_timing hf hm (timerInit_prescaler hstop)) ?_
  exact run_of_next 0 (last _)

section
variable {s : State} {n : Word} {k m : Nat} {ms v : Option Word} {tm : Timer} {ts : List Agent} {caller : Seq} {callers : List Seq}
  (hf : s.fault = none) (hm : s.drv.mode = .running)
include hf hm

/-- Lines 0 to 5 start the timer. -/
theorem run_delay_start (hready : s.drv.timerReady = true) (hfit : n.toNat * 1000 < 2 ^ 32) :
    Claims.runSteps (m + 6) ((withTurns s (.driver :: .driver :: .driver :: .driver :: .driver :: .driver :: ts) k).timing
        (.delayMs n) 0 ms v tm) =
      Claims.runSteps m ((withTurns s ts (k + 6)).timing (.delayMs n) 6 (some n) v (tm.started (delayTarget n))) := by
  refine Eq.trans (run_timing hf hm (delay_entry hready)) ?_
  refine Eq.trans (run_timing hf hm (delay_argument hfit)) ?_
  refine Eq.trans (run_timing hf hm delay_clear) ?_
  refine Eq.trans (run_timing hf hm (delay_target hfit)) ?_
  refine Eq.trans (run_timing hf hm delay_clearEvent) ?_
  exact run_timing hf hm delay_start

/-- With the event set, lines 6 to 8 stop the timer and return. -/
theorem run_delay_end (hset : tm.eventsCompare0 = true) (hcallers : s.drv.callers = caller :: callers) :
    Claims.runSteps 3 ((withTurns s (.driver :: .driver :: .driver :: ts) k).timing (.delayMs n) 6 ms v tm) = .next
      { s with
        drv := { s.drv with nMs := ms, v := some 1, seq := caller, callers := callers }
        timer := { tm with running := false }
        turns := ts
        clock := s.clock + (k + 3) } := by
  refine Eq.trans (run_timing hf hm (delay_poll_set hf hset)) ?_
  refine Eq.trans (run_timing hf hm delay_stop) ?_
  refine run_of_next 0 ?_
  rw [(delay_return (s := withTurns s (.driver :: ts) (k + 1 + 1))).step ⟨hf, rfl, hm⟩]
  simp [State.ret, State.timing, withTurns, State.passTurn, hcallers, Nat.add_assoc]

end

/-- Settles O37: lines 0 to 5 start the timer, its ticks set the event, and lines 6 to 8 stop it and return. -/
theorem delayTakesItsTicks : Obligations.DelayTakesItsTicks := by
  intro s n caller callers rest hf hm hq hcallers hready hstop hb hn hfit hts
  rw [List.append_assoc, List.append_assoc] at hts
  have due : ticksToTarget (delayTarget n) = n.toNat * 1000 := ticksToTarget_ofNat (by omega) hfit
  have ticks := Timer.started_ticked (cc := delayTarget n) hb hfit.le
  rw [due, decide_eq_true le_rfl] at ticks
  have hset := congrArg Timer.eventsCompare0 ticks
  rw [show n.toNat * 1000 + 9 = 3 + n.toNat * 1000 + 6 by omega]
  calc Claims.runSteps (3 + n.toNat * 1000 + 6) s
    _ = Claims.runSteps (3 + n.toNat * 1000 + 6) _ := congrArg _ (eq_timing hq hts)
    _ = Claims.runSteps (3 + n.toNat * 1000) _ := run_delay_start hf hm hready hfit
    _ = Claims.runSteps 3 _ := run_ticks hf rfl _
    _ = _ := run_delay_end hf hm hset hcallers
    _ = _ := by rw [ticks, show 0 + 6 + n.toNat * 1000 + 3 = 3 + n.toNat * 1000 + 6 by omega]; rfl

/-! ## A whole call of `delay_ms` under weak fairness (R223, R226) -/

/-- `u` differs from `s` at most in what goes on beside a call of `delay_ms`: the radio's state, the air trace and the turns. -/
def Alongside (s u : State) : Prop := ∃ r air ts c, u = { s with radio := r, air := air, turns := ts, clock := c }

/-- `t` is at a line of `delay_ms(n)` called from `s`, with `n_ms` and a timer of which `T` holds. -/
def DelayAt (s : State) (n : Word) (line : Nat) (ms : Option Word) (T : Timer → Prop) (t : State) : Prop :=
  ∃ u v tm, Alongside s u ∧ T tm ∧ t = u.timing (.delayMs n) line ms v tm

/-- A tick keeps `T` where the timer runs. -/
def TicksKeep (T : Timer → Prop) : Prop := ∀ tm, T tm → tm.running = true → T tm.ticked

theorem ticksKeep_eq {tm : Timer} (hstop : tm.running = false) : TicksKeep (· = tm) := by
  rintro _ rfl hrun
  exact absurd hrun (ne_true_of_eq_false hstop)

/-- The timer holds a target and its event is set. -/
structure Elapsed (cc : Word) (running : Bool) (tm : Timer) : Prop where
  target : tm.cc = cc
  event : tm.eventsCompare0 = true
  running : tm.running = running

/-- A set event stays set. -/
theorem ticksKeep_elapsed (cc : Word) (running : Bool) : TicksKeep (Elapsed cc running) := fun tm h _ =>
  ⟨h.target, by simp only [Timer.ticked, h.event, Bool.true_or], h.running⟩

section
variable {f : Nat → Agent} {s u : State} {n : Word} {line : Nat} {ms v : Option Word} {tm : Timer}
  {T : Timer → Prop} {Q : State → Prop}

theorem Alongside.refl (s : State) : Alongside s s := ⟨s.radio, s.air, s.turns, s.clock, rfl⟩

theorem Alongside.onTurn (h : Alongside s u) (b : Agent) : Alongside s { u with turns := [b] } := by
  obtain ⟨r, air, _, c, rfl⟩ := h
  exact ⟨r, air, [b], c, rfl⟩

theorem Alongside.passTurn (h : Alongside s u) : Alongside s u.passTurn := by
  obtain ⟨r, air, ts, c, rfl⟩ := h
  exact ⟨r, air, ts.tail, c + 1, rfl⟩

theorem Alongside.withRadio (h : Alongside s u) (r : Radio) (air : List AirFrame) :
    Alongside s { u with radio := r, air := air } := by
  obtain ⟨_, _, ts, c, rfl⟩ := h
  exact ⟨r, air, ts, c, rfl⟩

theorem Alongside.drv (h : Alongside s u) : u.drv = s.drv := by
  obtain ⟨_, _, _, _, rfl⟩ := h
  rfl

theorem Alongside.ram (h : Alongside s u) : u.ram = s.ram := by
  obtain ⟨_, _, _, _, rfl⟩ := h
  rfl

theorem Alongside.noFault (h : Alongside s u) (hf : s.fault = none) : u.fault = none := by
  obtain ⟨_, _, _, _, rfl⟩ := h
  exact hf

theorem Alongside.running (h : Alongside s u) (hm : s.drv.mode = .running) : u.drv.mode = .running := h.drv ▸ hm

theorem DelayAt.passTurn (hu : Alongside s u) (hT : T tm) :
    DelayAt s n line ms T (u.timing (.delayMs n) line ms v tm).passTurn :=
  ⟨u.passTurn, v, tm, hu.passTurn, hT, rfl⟩

variable (hf : s.fault = none) (hm : s.drv.mode = .running)
include hf hm

/-- The turn of an agent without a step keeps the call where it is. -/
theorem DelayAt.stepAs_idle {b : Agent} (hu : Alongside s u) (hT : T tm)
    (he : enabled (u.timing (.delayMs n) line ms v tm) b = false) :
    ∃ t, stepAs b (u.timing (.delayMs n) line ms v tm) = .next t ∧ DelayAt s n line ms T t :=
  ⟨_, Safety.stepAs_idle (hu.noFault hf) (hu.running hm) he, { u with turns := [], clock := u.clock + 1 }, v, tm,
    (hu.onTurn b).passTurn, hT, rfl⟩

/-- The RADIO's turn keeps the call where it is. -/
theorem DelayAt.stepAs_radio (hu : Alongside s u) (hT : T tm) :
    ∃ t, stepAs .radio (u.timing (.delayMs n) line ms v tm) = .next t ∧ DelayAt s n line ms T t := by
  have hu' := hu.onTurn .radio
  cases he : radioEnabled u with
  | true =>
    refine ⟨_, step_radio (s := ({ u with turns := [.radio] } : State).timing (.delayMs n) line ms v tm)
      (hu'.noFault hf) rfl he, ?_⟩
    rw [radioStep_eq]
    exact ⟨_, v, tm, (hu'.withRadio _ _).passTurn, hT, rfl⟩
  | false => exact DelayAt.stepAs_idle hf hm hu hT he

/-- The TIMER's turn keeps the call where it is, as far as its ticks keep `T`. -/
theorem DelayAt.stepAs_timer (keep : TicksKeep T) (hu : Alongside s u) (hT : T tm) :
    ∃ t, stepAs .timer (u.timing (.delayMs n) line ms v tm) = .next t ∧ DelayAt s n line ms T t := by
  have hu' := hu.onTurn .timer
  cases hrun : tm.running with
  | true => exact ⟨_, step_timing_tick (hu'.noFault hf) rfl hrun, _, v, _, hu'.passTurn, keep tm hT hrun, rfl⟩
  | false => exact DelayAt.stepAs_idle hf hm hu hT hrun

/-- Under a fair DRIVER, a line of the call is followed by what the DRIVER's step there leads to. -/
theorem Reaches.delayLine (start : Reaches f s (DelayAt s n line ms T)) (live : DriverLive f s) (keep : TicksKeep T)
    (move : ∀ u v tm, Alongside s u → T tm → ∃ t, DriverGoesTo (u.timing (.delayMs n) line ms v tm) t ∧ Q t.passTurn) :
    Reaches f s Q := by
  refine start.leads live ?able ?own ?others
  case able =>
    rintro _ ⟨u, v, tm, hu, hT, rfl⟩
    obtain ⟨_, hgo, -⟩ := move u v tm hu hT
    exact enabled_driver (hu.running hm) hgo.1
  case own =>
    rintro _ ⟨u, v, tm, hu, hT, rfl⟩
    have hu' := hu.onTurn .driver
    obtain ⟨t, hgo, hq⟩ := move _ v tm hu' hT
    exact ⟨_, hgo.step ⟨hu'.noFault hf, rfl, hu'.running hm⟩, hq⟩
  case others =>
    rintro _ b ⟨u, v, tm, hu, hT, rfl⟩ hb
    cases b with
    | driver => exact absurd rfl hb
    | radio => exact DelayAt.stepAs_radio hf hm hu hT
    | timer => exact DelayAt.stepAs_timer hf hm keep hu hT

/-- Under a fair TIMER, the wait for a clear event lasts until the running timer's next tick. -/
theorem Reaches.delayTick (start : Reaches f s (DelayAt s n 6 ms (· = tm))) (live : HardwareLive f s)
    (hrun : tm.running = true) (hclear : tm.eventsCompare0 = false) : Reaches f s (DelayAt s n 6 ms (· = tm.ticked)) := by
  refine start.leads live.2 ?able ?own ?others
  case able =>
    rintro _ ⟨u, v, _, -, rfl, rfl⟩
    exact hrun
  case own =>
    rintro _ ⟨u, v, _, hu, rfl, rfl⟩
    have hu' := hu.onTurn .timer
    exact ⟨_, step_timing_tick (hu'.noFault hf) rfl hrun, .passTurn hu' rfl⟩
  case others =>
    rintro _ b ⟨u, v, _, hu, rfl, rfl⟩ hb
    cases b with
    | driver =>
      have hu' := hu.onTurn .driver
      exact ⟨_, (delay_poll_clear (hu'.noFault hf) hclear).step ⟨hu'.noFault hf, rfl, hu'.running hm⟩, .passTurn hu' rfl⟩
    | radio => exact DelayAt.stepAs_radio hf hm hu rfl
    | timer => exact absurd rfl hb

/-- Lines 0 to 5: the stopped timer is set up and started. -/
theorem reaches_started (live : DriverLive f s) (hready : s.drv.timerReady = true) (hfit : n.toNat * 1000 < 2 ^ 32)
    (hstop : tm.running = false) (start : Reaches f s (DelayAt s n 0 ms (· = tm))) :
    Reaches f s (DelayAt s n 6 (some n) (· = tm.started (delayTarget n))) := by
  have line1 : Reaches f s (DelayAt s n 1 ms (· = tm)) :=
    start.delayLine hf hm live (ticksKeep_eq hstop) fun _ _ _ hu hT =>
      ⟨_, delay_entry (hu.drv ▸ hready), .passTurn hu hT⟩
  have line2 : Reaches f s (DelayAt s n 2 (some n) (· = tm)) :=
    line1.delayLine hf hm live (ticksKeep_eq hstop) fun _ _ _ hu hT => ⟨_, delay_argument hfit, .passTurn hu hT⟩
  have line3 : Reaches f s (DelayAt s n 3 (some n) (· = { tm with count := 0 })) :=
    line2.delayLine hf hm live (ticksKeep_eq hstop) fun _ _ _ hu hT => ⟨_, delay_clear, .passTurn hu (by rw [hT])⟩
  have line4 : Reaches f s (DelayAt s n 4 (some n) (· = { tm with count := 0, cc := delayTarget n })) :=
    line3.delayLine hf hm live (ticksKeep_eq hstop) fun _ _ _ hu hT => ⟨_, delay_target hfit, .passTurn hu (by rw [hT])⟩
  have line5 : Reaches f s
      (DelayAt s n 5 (some n) (· = { tm with count := 0, cc := delayTarget n, eventsCompare0 := false })) :=
    line4.delayLine hf hm live (ticksKeep_eq hstop) fun _ _ _ hu hT => ⟨_, delay_clearEvent, .passTurn hu (by rw [hT])⟩
  exact line5.delayLine hf hm live (ticksKeep_eq hstop) fun _ _ _ hu hT =>
    ⟨_, delay_start, .passTurn hu (by rw [hT, Timer.started])⟩

/-- Line 6: tick by tick the started timer gets to its target. -/
theorem reaches_ticked {cc : Word} (live : HardwareLive f s) (hb : tm.bitmode = 3)
    (start : Reaches f s (DelayAt s n 6 ms (· = tm.started cc))) {m : Nat} (hm' : m ≤ ticksToTarget cc) :
    Reaches f s (DelayAt s n 6 ms (· = Timer.ticked^[m] (tm.started cc))) := by
  induction m with
  | zero => exact start
  | succ m ih =>
    have hcap := ticksToTarget_le cc
    have ticks := Timer.started_ticked (cc := cc) (m := m) hb (by omega)
    have early : decide (ticksToTarget cc ≤ m) = false := decide_eq_false (by omega)
    rw [Function.iterate_succ_apply']
    exact (ih (by omega)).delayTick hf hm live (by rw [ticks]; rfl) (by rw [ticks]; exact early)

/-- Line 6: the wait ends with the event set, though the timer may tick on. -/
theorem reaches_elapsed {cc : Word} (live : HardwareLive f s) (hb : tm.bitmode = 3)
    (start : Reaches f s (DelayAt s n 6 ms (· = tm.started cc))) : Reaches f s (DelayAt s n 6 ms (Elapsed cc true)) := by
  have ticks := Timer.started_ticked (cc := cc) hb (ticksToTarget_le cc)
  rw [decide_eq_true le_rfl] at ticks
  obtain ⟨k, t, hrun, u, v, _, hu, rfl, ht⟩ := reaches_ticked hf hm live hb start le_rfl
  exact ⟨k, t, hrun, u, v, _, hu, by rw [ticks]; exact ⟨rfl, rfl, rfl⟩, ht⟩

/-- Lines 6 and 7: with the event set the timer is stopped. -/
theorem reaches_stopped {cc : Word} (live : DriverLive f s) (start : Reaches f s (DelayAt s n 6 ms (Elapsed cc true))) :
    Reaches f s (DelayAt s n 8 ms (Elapsed cc false)) := by
  have line7 : Reaches f s (DelayAt s n 7 ms (Elapsed cc true)) :=
    start.delayLine hf hm live (ticksKeep_elapsed _ _) fun _ _ _ hu hT =>
      ⟨_, delay_poll_set (hu.noFault hf) hT.event, .passTurn hu hT⟩
  exact line7.delayLine hf hm live (ticksKeep_elapsed _ _) fun _ _ _ hu hT =>
    ⟨_, delay_stop, .passTurn hu ⟨hT.target, hT.event, rfl⟩⟩

end

/-- Settles O39: lines 0 to 7 by the stages, then the return. -/
theorem delayReturnsUnderFairness : Obligations.DelayReturnsUnderFairness := by
  intro f s n caller callers hf hm hq hcallers hready hstop hb hfit hw live
  have start : Reaches f s (DelayAt s n 0 s.drv.nMs (· = s.timer)) :=
    ⟨0, s, rfl, withTurns s s.turns 0, s.drv.v, s.timer, .refl s, rfl, eq_timing hq rfl⟩
  have started := reaches_started hf hm live hready hfit hstop start
  refine (reaches_stopped hf hm live (reaches_elapsed hf hm hw hb started)).delayLine hf hm live (ticksKeep_elapsed _ _) ?_
  rintro u v tm hu ⟨hcc, hset, hrun⟩
  refine ⟨_, delay_return, ?_⟩
  obtain ⟨hseq, hback⟩ := State.ret_to_caller (u.timing (.delayMs n) 8 (some n) v tm) caller callers
    ((congrArg Driver.callers hu.drv).trans hcallers)
  simp only [State.passTurn_fault, State.ret_fault, State.passTurn_drv, State.passTurn_timer, State.ret_timer,
    State.passTurn_ram, State.ret_ram]
  exact ⟨hu.noFault hf, hseq, hback, hrun, hset, hcc, hu.ram⟩

end Sys2Proof.Safety

/-!
PROOFS. Calls, loop and halt (45_transmit_loop.md): the halted DRIVER, the counter and the report, and the decisions of `main`.
-/

namespace Sys2Proof.Machine

/-- Settles O41: the turn of a halted DRIVER is idle, and the RADIO's and the TIMER's steps act on the hardware only. -/
theorem haltStopsTheDriver : Obligations.HaltStopsTheDriver := by
  intro s
  refine ⟨rfl, fun hm t ht => ?_, fun _ => step_radio, fun _ => step_timer⟩
  obtain ⟨-, ⟨-, he, -⟩ | ⟨-, -, rfl⟩ | ⟨-, -, rfl⟩ | rfl⟩ := step_cases s t ht
  · simp [driverEnabled, hm] at he
  · exact (radioStep_frame s).2
  · rfl
  · rfl

section
variable {s t : State} {n : Nat}

/-- A DRIVER that is about to move at a line that issues an operation does what the operation answers. -/
theorem step_issue {i : Instr} (h : Claims.driverMoves s) (hl : lineAt s = .issue i) (he : encodable i = true)
    (hx : exec i s = .next t) : step s = .next t.passTurn := by
  rw [stepRunsDecodedOperation s _ i h hl (decodeEncodeRoundTrip i he), hx]
  rfl

theorem lineAt_main (hq : s.drv.seq = ⟨.main, n, 0⟩) : lineAt s = mainLine s n := by
  simp only [lineAt, hq]

theorem next_of_main (hq : s.drv.seq = ⟨.main, n, 0⟩) : s.drv.seq.next = ⟨.main, n + 1, 0⟩ := by
  rw [hq]
  rfl

end

/-- Settles O44: line 9 counts, line 10 offers the report of a count that is due. -/
theorem counterAndReport : Obligations.CounterAndReport := by
  intro s c hmoves hc
  refine ⟨fun hq => ?_, fun hq => ?_⟩
  all_goals
    have hl := lineAt_main hq
    simp only [mainLine, hc] at hl
    rw [← next_of_main hq]
  · exact step_compute hmoves hl
  · refine ⟨fun hdue => ?_, fun hdue => step_compute hmoves (hl.trans (if_neg hdue))⟩
    rw [step_compute hmoves (hl.trans (if_pos hdue)), State.emitReport]
    split
    · exact .inl rfl
    · exact .inr rfl

/-- Settles O45: lines 4 and 7 by their tests, line 8 by the address that `encode` left. -/
theorem mainDecidesAtItsBranches : Obligations.MainDecidesAtItsBranches := by
  intro s hmoves
  refine ⟨fun n hq hr => ?_, fun a w hq hr => ?_, fun i hq hi => ?_, fun a hq ha => ?_⟩
  all_goals have hl := lineAt_main hq
  · simp only [mainLine, hr] at hl
    exact step_issue hmoves hl rfl rfl
  · simp only [mainLine, hr] at hl
    rw [← next_of_main hq]
    exact step_compute hmoves hl
  · simp only [mainLine, hi] at hl
    rw [← next_of_main hq]
    split
    · rename_i hk
      exact step_compute hmoves (hl.trans (if_pos hk))
    · rename_i hk
      exact step_compute hmoves (hl.trans (if_neg hk))
  · simp only [mainLine, ha] at hl
    exact step_issue hmoves hl rfl rfl

end Sys2Proof.Machine

/-!
PROOFS. Every step of the block's own program keeps `BlockSafe` (45_transmit_loop.md R230): what each position asks for, the
DRIVER's lines procedure by procedure, and the steps of the RADIO and the TIMER.
-/

namespace Sys2Proof.Safety

open Sys2Proof.Machine

section
variable {s u : State} {n k : Nat}

/-! ## What the positions ask for -/

theorem radioSteady_iff : radioSteady s = true ↔ s.radio.rs = .idle ∨ s.radio.rs = .disabled := by
  simp [radioSteady]

theorem unconfigured_iff : unconfigured s = true ↔
    s.drv.configured = false ∧ s.drv.timerReady = false ∧ s.radio.rs = .idle ∧ s.timer.running = false := by
  simp [unconfigured, and_assoc]

theorem configuredOnly_iff : configuredOnly s = true ↔
    s.drv.configured = true ∧ s.radio.blockConfigured = true ∧ s.drv.timerReady = false ∧ s.radio.rs = .idle ∧
      s.timer.running = false := by
  simp [configuredOnly, and_assoc]

theorem bufferKnown_iff : bufferKnown s = true ↔ s.drv.bufAddr = some s.params.bufBase ∧ nameFits s.params.name = true := by
  simp [bufferKnown]

theorem looping_iff : looping s = true ↔
    s.drv.configured = true ∧ s.radio.blockConfigured = true ∧ s.drv.timerReady = true ∧ bufferKnown s = true ∧
      s.drv.iter.isSome = true ∧ s.drv.txCount.isSome = true := by
  simp [looping, and_assoc]

theorem blockPosition_main (hq : s.drv.seq = ⟨.main, n, k⟩) : blockPosition s = true ↔
    (s.drv.mode = .running ∧ s.drv.callers = []) ∧ mainPosition s n = true := by
  simp [blockPosition, hq]

theorem blockPosition_configure (hq : s.drv.seq = ⟨.configure, n, k⟩) : blockPosition s = true ↔
    (s.drv.mode = .running ∧ s.drv.callers = [⟨.main, 3, 0⟩]) ∧ unconfigured s = true ∧ n ≤ 13 ∧
      configPrefix s (n - 1) = true := by
  simp [blockPosition, hq, and_assoc]

theorem blockPosition_encode {name : List Byte} (hq : s.drv.seq = ⟨.encode name, n, k⟩) : blockPosition s = true ↔
    (s.drv.mode = .running ∧ s.drv.callers = [⟨.main, 4, 0⟩]) ∧ configuredOnly s = true ∧
      encodePosition s name n k = true := by
  simp [blockPosition, hq, and_assoc]

theorem blockPosition_timerInit (hq : s.drv.seq = ⟨.timerInit, n, k⟩) : blockPosition s = true ↔
    (s.drv.mode = .running ∧ s.drv.callers = [⟨.main, 6, 0⟩]) ∧ configuredOnly s = true ∧ bufferKnown s = true ∧
      1 ≤ n ∧ n ≤ 4 := by
  simp [blockPosition, hq, and_assoc]

theorem blockPosition_transmit {a : Word} (hq : s.drv.seq = ⟨.transmit a, n, k⟩) : blockPosition s = true ↔
    (s.drv.mode = .running ∧ s.drv.callers = [⟨.main, 9, 0⟩]) ∧ looping s = true ∧ s.timer.running = false ∧
      a = s.params.bufBase ∧ transmitPosition s n = true := by
  simp [blockPosition, hq, and_assoc]

theorem blockPosition_delayMs {ms : Word} (hq : s.drv.seq = ⟨.delayMs ms, n, k⟩) : blockPosition s = true ↔
    (s.drv.mode = .running ∧ s.drv.callers = [⟨.main, 12, 0⟩]) ∧ looping s = true ∧ radioSteady s = true ∧
      ms = Config.advertisingMs ∧ delayPosition s n = true := by
  simp [blockPosition, hq, and_assoc]

theorem blockPosition_halt (hq : s.drv.seq = ⟨.halt, n, k⟩) : blockPosition s = true ↔
    s.drv.mode = .halted ∧ configuredOnly s = true ∧ nameFits s.params.name = false := by
  simp [blockPosition, hq, and_assoc]

/-- The lines of the loop of `main` ask for the loop's facts, a radio at rest and a stopped timer. -/
theorem mainPosition_loop (h7 : 7 ≤ n) (h12 : n ≤ 12) :
    mainPosition s n = true ↔ looping s = true ∧ radioSteady s = true ∧ s.timer.running = false := by
  have same : mainPosition s n = (looping s && radioSteady s && !s.timer.running) := by interval_cases n <;> rfl
  simp [same, and_assoc]

/-- The end of `main` asks for the same, and that the iterations are `K`. -/
theorem mainPosition_exit : mainPosition s 13 = true ↔
    (looping s = true ∧ radioSteady s = true ∧ s.timer.running = false) ∧ s.params.loopBound = s.drv.iter := by
  simp [mainPosition, and_assoc]

/-- The variables that the loop of `main` reads have their values. -/
theorem looping_values (h : looping s = true) :
    s.drv.bufAddr = some s.params.bufBase ∧ ∃ i c, s.drv.iter = some i ∧ s.drv.txCount = some c := by
  obtain ⟨-, -, hvalues⟩ := looping_facts h
  obtain ⟨-, -, -, hbuf, -⟩ := looping_iff.mp h
  exact ⟨(bufferKnown_iff.mp hbuf).1, hvalues⟩

/-! ## The DRIVER's lines -/

theorem driverStep_exit (hl : lineAt s = .exit) (hd : driverStep s = .next u) : s = u := by
  simp only [driverStep, hl] at hd
  cases hd
  rfl

/-- A `WAIT` whose flag is set goes on. -/
theorem driverStep_await_set {e : Event} (hf : s.fault = none) (hl : lineAt s = .await e) (hs : s.eventFlag e = true) :
    driverStep s = .next ({ s with drv := { s.drv with v := some 1 } } : State).advance := by
  rw [driverStep_await hf hl, if_pos hs]

/-- A `WAIT` whose flag is clear stays. -/
theorem driverStep_await_clear {e : Event} (hf : s.fault = none) (hl : lineAt s = .await e) (hs : s.eventFlag e = false) :
    driverStep s = .next { s with drv := { s.drv with v := some 0 } } := by
  rw [driverStep_await hf hl, if_neg (ne_true_of_eq_false hs)]

/-- A DRIVER step that raises no fault, leaves the transmit count and meets its new position is safe. -/
theorem BlockSafe.of_position (h : BlockSafe s) (hd : driverStep s = .next u) (hstart : s.drv.seq ≠ ⟨.main, 1, 0⟩)
    (hf : u.fault = s.fault) (hc : u.drv.txCount = s.drv.txCount) (hpos : blockPosition u = true) : BlockSafe u where
  noFault := hf.trans h.noFault
  placed := driverStep_params hd ▸ h.placed
  counted := fun _ => hc ▸ h.counted hstart
  position := hpos

/-- A return from a procedure to `main` that leaves the transmit count and meets the new position is safe. -/
theorem BlockSafe.of_return {d : Driver} (h : BlockSafe s) (hd : driverStep s = .next (s.setDrv d).ret)
    (hstart : s.drv.seq ≠ ⟨.main, 1, 0⟩) (hmode : d.mode = .running) (hcallers : d.callers = [⟨.main, n, 0⟩])
    (hc : d.txCount = s.drv.txCount) (hat : mainPosition (s.setDrv d) n = true) : BlockSafe (s.setDrv d).ret := by
  have hret : (s.setDrv d).ret = s.setDrv { d with seq := ⟨.main, n, 0⟩, callers := [] } := by
    simp [State.ret, State.setDrv, hcallers]
  rw [hret] at hd ⊢
  exact h.of_position hd hstart rfl hc ((blockPosition_main rfl).mpr ⟨⟨hmode, rfl⟩, hat⟩)

/-- `main` line by line up to the head of its loop (R230). -/
theorem BlockSafe.of_main_before_loop (h : BlockSafe s) (hq : s.drv.seq = ⟨.main, n, k⟩) (hn : n < 7)
    (hd : driverStep s = .next u) : BlockSafe u := by
  obtain ⟨⟨hmode, hcallers⟩, hat⟩ := (blockPosition_main hq).mp h.position
  have hl : lineAt s = mainLine s n := by simp only [lineAt, hq]
  have hnext : s.drv.seq.next = ⟨.main, n + 1, 0⟩ := by rw [hq]; rfl
  have goes (hn : n ≠ 1) := h.of_position hd fun hq' => hn (by rw [hq] at hq'; cases hq'; rfl)
  have pushed (p : Proc) : (s.enter p).drv.callers = [⟨.main, n + 1, 0⟩] := by simp [hnext, hcallers]
  unfold mainLine at hl
  split at hl
  case h_1 =>
    cases (driverStep_compute hl).symm.trans hd
    exact ⟨h.noFault, h.placed, fun _ => rfl, (blockPosition_main (n := 2) hnext).mpr ⟨⟨hmode, hcallers⟩, hat⟩⟩
  case h_2 =>
    cases (driverStep_of_issue hl rfl rfl).symm.trans hd
    exact goes nofun rfl rfl ((blockPosition_configure rfl).mpr ⟨⟨hmode, pushed _⟩, hat, by decide, rfl⟩)
  case h_3 =>
    cases (driverStep_of_issue hl rfl rfl).symm.trans hd
    exact goes nofun rfl rfl
      ((blockPosition_encode rfl).mpr ⟨⟨hmode, pushed _⟩, hat, by simp [encodePosition, Proc.firstLine]⟩)
  case h_4 =>
    obtain ⟨hconf, hr⟩ := Bool.and_eq_true_iff.mp hat
    split at hl <;> rename_i hr' <;> simp only [hr'] at hr
    case h_1 => cases hr
    case h_2 =>
      cases (driverStep_of_issue hl rfl rfl).symm.trans hd
      exact goes nofun rfl rfl ((blockPosition_halt rfl).mpr ⟨rfl, hconf, (Bool.not_eq_true' _).mp hr⟩)
    case h_3 =>
      cases (driverStep_compute hl).symm.trans hd
      exact goes nofun rfl rfl
        ((blockPosition_main (n := 5) hnext).mpr ⟨⟨hmode, hcallers⟩, Bool.and_eq_true_iff.mpr ⟨hconf, hr⟩⟩)
  case h_5 =>
    cases (driverStep_of_issue hl rfl rfl).symm.trans hd
    obtain ⟨hconf, hbuf⟩ := Bool.and_eq_true_iff.mp hat
    exact goes nofun rfl rfl ((blockPosition_timerInit rfl).mpr ⟨⟨hmode, pushed _⟩, hconf, hbuf, by decide, by decide⟩)
  case h_6 =>
    cases (driverStep_compute hl).symm.trans hd
    simp only [mainPosition, Bool.and_eq_true, decide_eq_true_eq, Bool.not_eq_true'] at hat
    obtain ⟨⟨⟨⟨⟨hconf, hradio⟩, hready⟩, hbuf⟩, hrs⟩, hstop⟩ := hat
    have hcount := h.counted (by rw [hq]; exact nofun)
    have hloop := (mainPosition_loop (s := (s.setDrv { s.drv with iter := some 0 }).advance) le_rfl (by decide)).mpr
      ⟨looping_iff.mpr ⟨hconf, hradio, hready, hbuf, rfl, hcount⟩, radioSteady_iff.mpr (.inl hrs), hstop⟩
    exact goes nofun rfl rfl ((blockPosition_main (n := 7) hnext).mpr ⟨⟨hmode, hcallers⟩, hloop⟩)
  case h_13 => exact driverStep_exit hl hd ▸ h
  all_goals omega

/-- The loop of `main` line by line (R230). -/
theorem BlockSafe.of_main_loop (h : BlockSafe s) (hq : s.drv.seq = ⟨.main, n, k⟩) (h7 : 7 ≤ n) (h12 : n ≤ 12)
    (hd : driverStep s = .next u) : BlockSafe u := by
  obtain ⟨⟨hmode, hcallers⟩, hat⟩ := (blockPosition_main hq).mp h.position
  obtain ⟨hloop, hrest, hstop⟩ := (mainPosition_loop h7 h12).mp hat
  obtain ⟨ha, i, c, hi, hc⟩ := looping_values hloop
  have hl : lineAt s = mainLine s n := by simp only [lineAt, hq]
  have hnext : s.drv.seq.next = ⟨.main, n + 1, 0⟩ := by rw [hq]; rfl
  have goes := h.of_position hd fun hq' => by rw [hq] at hq'; cases hq'; omega
  have pushed (p : Proc) : (s.enter p).drv.callers = [⟨.main, n + 1, 0⟩] := by simp [hnext, hcallers]
  have inLoop {t : State} {m : Nat} (hseq : t.drv.seq = ⟨.main, m, 0⟩) (hm : 7 ≤ m ∧ m ≤ 12)
      (hkept : t.drv.mode = s.drv.mode ∧ t.drv.callers = s.drv.callers ∧ t.radio = s.radio ∧ t.timer = s.timer)
      (hloop : looping t = true) : blockPosition t = true := by
    obtain ⟨hmode', hcallers', hradio, htimer⟩ := hkept
    rw [blockPosition_main hseq, mainPosition_loop hm.1 hm.2, radioSteady, hmode', hcallers', hradio, htimer]
    exact ⟨⟨hmode, hcallers⟩, hloop, hrest, hstop⟩
  unfold mainLine at hl
  split at hl
  case h_7 =>
    simp only [hi] at hl
    split at hl <;> cases (driverStep_compute hl).symm.trans hd
    case isTrue hk =>
      exact goes rfl rfl ((blockPosition_main (n := 13) rfl).mpr
        ⟨⟨hmode, hcallers⟩, mainPosition_exit.mpr ⟨⟨hloop, hrest, hstop⟩, hk.trans hi.symm⟩⟩)
    case isFalse => exact goes rfl rfl (inLoop hnext (by decide) ⟨rfl, rfl, rfl, rfl⟩ hloop)
  case h_8 =>
    simp only [ha] at hl
    cases (driverStep_of_issue hl rfl rfl).symm.trans hd
    exact goes rfl rfl ((blockPosition_transmit (n := 0) rfl).mpr ⟨⟨hmode, pushed _⟩, hloop, hstop, rfl, hrest⟩)
  case h_9 =>
    simp only [hc] at hl
    cases (driverStep_compute hl).symm.trans hd
    obtain ⟨hconf, hradio, hready, hbuf, hiter, -⟩ := looping_iff.mp hloop
    exact ⟨h.noFault, h.placed, fun _ => rfl, inLoop hnext (by decide) ⟨rfl, rfl, rfl, rfl⟩
      (looping_iff.mpr ⟨hconf, hradio, hready, hbuf, hiter, rfl⟩)⟩
  case h_10 =>
    simp only [hc] at hl
    have hu : ∃ log, u = ({ s with log := log } : State).advance := by
      split at hl <;> cases (driverStep_compute hl).symm.trans hd
      · unfold State.emitReport
        split <;> exact ⟨_, rfl⟩
      · exact ⟨_, rfl⟩
    obtain ⟨log, rfl⟩ := hu
    exact goes rfl rfl (inLoop hnext (by decide) ⟨rfl, rfl, rfl, rfl⟩ hloop)
  case h_11 =>
    cases (driverStep_of_issue hl rfl rfl).symm.trans hd
    exact goes rfl rfl ((blockPosition_delayMs (n := 0) rfl).mpr
      ⟨⟨hmode, pushed _⟩, hloop, hrest, rfl, (Bool.not_eq_true' _).mpr hstop⟩)
  case h_12 =>
    simp only [hi] at hl
    cases (driverStep_compute hl).symm.trans hd
    obtain ⟨hconf, hradio, hready, hbuf, -, hcount⟩ := looping_iff.mp hloop
    exact goes rfl rfl (inLoop rfl (by decide) ⟨rfl, rfl, rfl, rfl⟩
      (looping_iff.mpr ⟨hconf, hradio, hready, hbuf, rfl, hcount⟩))
  case h_13 => exact driverStep_exit hl hd ▸ h
  all_goals omega

/-- Past its loop `main` has no line. -/
theorem BlockSafe.of_main (h : BlockSafe s) (hq : s.drv.seq = ⟨.main, n, k⟩) (hd : driverStep s = .next u) : BlockSafe u := by
  rcases Nat.lt_or_ge n 7 with hn | h7
  · exact h.of_main_before_loop hq hn hd
  rcases Nat.lt_or_ge 12 n with hn | h12
  · have hl : lineAt s = .exit := by
      obtain ⟨n, rfl⟩ := Nat.exists_eq_add_of_le' (show 13 ≤ n from hn)
      simp [lineAt, hq, mainLine]
    exact driverStep_exit hl hd ▸ h
  · exact h.of_main_loop hq h7 h12 hd

/-- `configure` line by line (R115). -/
theorem BlockSafe.of_configure (h : BlockSafe s) (hq : s.drv.seq = ⟨.configure, n, k⟩) (hd : driverStep s = .next u) :
    BlockSafe u := by
  obtain ⟨⟨hmode, hcallers⟩, hat, hn, hprefix⟩ := (blockPosition_configure hq).mp h.position
  obtain ⟨hconf, hready, hrs, hstop⟩ := unconfigured_iff.mp hat
  have hp : s.drv.seq.proc = .configure := by rw [hq]
  have hnext : s.drv.seq.next = ⟨.configure, n + 1, 0⟩ := by rw [hq]; rfl
  have hstart : s.drv.seq ≠ ⟨.main, 1, 0⟩ := by rw [hq]; exact nofun
  have goes := h.of_position hd hstart
  have hn' : n = 0 ∨ (∃ j : Fin 12, n = j + 1) ∨ n = 13 := by
    by_cases hmid : 1 ≤ n ∧ n ≤ 12
    · exact .inr (.inl ⟨⟨n - 1, by omega⟩, by simp; omega⟩)
    · omega
  rcases hn' with rfl | ⟨j, rfl⟩ | rfl
  · have hl : lineAt s = .compute s.advance := by simp [lineAt, hq, configureLine, hconf]
    cases (driverStep_compute hl).symm.trans hd
    exact goes rfl rfl ((blockPosition_configure hnext).mpr ⟨⟨hmode, hcallers⟩, hat, by decide, rfl⟩)
  · have hl := lineAt_configureWrite j hp (by rw [hq])
    have hx := (driverStep_issue hl (decode_configureWrite j)).trans (exec_configureWrite j hrs)
    rw [effect_configureWrite] at hx
    cases hx.symm.trans hd
    refine goes rfl rfl ((blockPosition_configure hnext).mpr ⟨⟨hmode, hcallers⟩, ?_, by omega, ?_⟩)
    · exact unconfigured_iff.mpr ⟨hconf, hready, (storeWrite_configureWrite_rs _ j).trans hrs, hstop⟩
    · exact configPrefix_set j hprefix (by rw [← effect_configureWrite_configWords, effect_configureWrite]; rfl)
  · have hl : lineAt s = .compute (s.setDrv { s.drv with configured := true }).ret := by simp [lineAt, hq, configureLine]
    cases (driverStep_compute hl).symm.trans hd
    exact h.of_return hd hstart hmode hcallers rfl (configuredOnly_iff.mpr
      ⟨rfl, blockConfigured_of_configPrefix hprefix, hready, hrs, hstop⟩)

/-- The positions of the stores of an accepted name, and of the return after them. -/
theorem encodePosition_encodeAt (hfit : nameFits s.params.name = true) {j : Nat} (hj : j ≤ pduLength s.params.name + 1) :
    encodePosition s s.params.name (encodeAt s.params.name j).line (encodeAt s.params.name j).sub = true := by
  rcases Nat.lt_or_eq_of_le hj with hlt | rfl
  · have hstb := encodeStb_encodeAt s.params.bufBase (Nat.le_of_lt_succ hlt)
    simp only [encodePosition, decide_true, Bool.true_and]
    split
    case h_1 hn => simp [hn, encodeStb, encodeLineBytes] at hstb
    case h_2 hn => simp [hn, encodeStb, encodeLineBytes] at hstb
    case h_3 => simp [hfit, hstb]
  · simp [encodeAt_done, encodePosition, hfit]

/-- Line 1 of `encode` accepts or rejects the name, lines 2 to 8 store, line 9 returns (R185). -/
theorem BlockSafe.of_encode {name : List Byte} (h : BlockSafe s) (hq : s.drv.seq = ⟨.encode name, n, k⟩)
    (hd : driverStep s = .next u) : BlockSafe u := by
  obtain ⟨⟨hmode, hcallers⟩, hconf, hat⟩ := (blockPosition_encode hq).mp h.position
  simp only [encodePosition, Bool.and_eq_true, decide_eq_true_eq] at hat
  obtain ⟨rfl, hat⟩ := hat
  have hp : s.drv.seq.proc = .encode s.params.name := by rw [hq]
  have hstart : s.drv.seq ≠ ⟨.main, 1, 0⟩ := by rw [hq]; exact nofun
  have goes := h.of_position hd hstart
  split at hat
  case h_1 =>
    have hn : s.drv.seq.line = 1 := by rw [hq]
    cases hfit : nameFits s.params.name with
    | true =>
      cases (driverStep_compute (lineAt_encode_accepts hp hn hfit)).symm.trans hd
      have hnext : s.drv.seq.next = encodeAt s.params.name 0 := by rw [hq]; rfl
      exact goes rfl rfl ((blockPosition_encode hnext).mpr
        ⟨⟨hmode, hcallers⟩, hconf, encodePosition_encodeAt (s := s.advance) (j := 0) hfit (Nat.zero_le _)⟩)
    | false =>
      cases (driverStep_compute (lineAt_encode_rejects hp hn hfit)).symm.trans hd
      exact h.of_return hd hstart hmode hcallers rfl (Bool.and_eq_true_iff.mpr ⟨hconf, (Bool.not_eq_true' _).mpr hfit⟩)
  case h_2 =>
    have hn : s.drv.seq.line = 9 := by rw [hq]
    have hfit := (Bool.and_eq_true_iff.mp hat).2
    cases (driverStep_compute (lineAt_encode_returns hp hn)).symm.trans hd
    exact h.of_return hd hstart hmode hcallers rfl (Bool.and_eq_true_iff.mpr ⟨hconf, bufferKnown_iff.mpr ⟨rfl, hfit⟩⟩)
  case h_3 =>
    obtain ⟨hfit, hstb⟩ := Bool.and_eq_true_iff.mp hat
    obtain ⟨j, hj, hj'⟩ := exists_encodeAt hstb
    have hstore : s.drv.seq = encodeAt s.params.name j := hq.trans hj'
    obtain ⟨-, -, -, hrs, -⟩ := configuredOnly_iff.mp hconf
    obtain ⟨-, hin⟩ := storeAddr_placed h.placed ((nameFits_iff _).mp hfit) hj
    have hrace : racesLatch s (storeAddr s.params s.params.name j) = false := by simp [racesLatch, hrs]
    have hx := exec_stb_of_inRam (b := storeByte s.params.name j) hin hrace
    cases (driverStep_of_issue (lineAt_encodeAt hstore hj) hin hx).symm.trans hd
    have hnext : s.drv.seq.next = encodeAt s.params.name (j + 1) := by rw [hstore, encodeAt_next hj]
    have hproc := encodeAt_proc s.params.name (j + 1)
    refine goes rfl rfl ((blockPosition_encode (hnext.trans ?_)).mpr
      ⟨⟨hmode, hcallers⟩, hconf, encodePosition_encodeAt (s := s) hfit (Nat.succ_le_succ hj)⟩)
    rw [← hproc]

/-- `timer_init` line by line (R220). -/
theorem BlockSafe.of_timerInit (h : BlockSafe s) (hq : s.drv.seq = ⟨.timerInit, n, k⟩) (hd : driverStep s = .next u) :
    BlockSafe u := by
  obtain ⟨⟨hmode, hcallers⟩, hconf, hbuf, h1, h4⟩ := (blockPosition_timerInit hq).mp h.position
  obtain ⟨hset, hradio, -, hrs, hstop⟩ := configuredOnly_iff.mp hconf
  have hl : lineAt s = timerInitLine s n := by simp only [lineAt, hq]
  have hnext : s.drv.seq.next = ⟨.timerInit, n + 1, 0⟩ := by rw [hq]; rfl
  have hstart : s.drv.seq ≠ ⟨.main, 1, 0⟩ := by rw [hq]; exact nofun
  have goes := h.of_position hd hstart
  unfold timerInitLine at hl
  split at hl
  case h_1 | h_2 | h_3 =>
    cases (driverStep_of_issue hl rfl (timerConfigWrite_of_stopped hstop)).symm.trans hd
    exact goes rfl rfl ((blockPosition_timerInit hnext).mpr ⟨⟨hmode, hcallers⟩, hconf, hbuf, by decide, by decide⟩)
  case h_4 =>
    cases (driverStep_compute hl).symm.trans hd
    refine h.of_return hd hstart hmode hcallers rfl ?_
    simp only [mainPosition, Bool.and_eq_true, decide_eq_true_eq, Bool.not_eq_true']
    exact ⟨⟨⟨⟨⟨hset, hradio⟩, rfl⟩, hbuf⟩, hrs⟩, hstop⟩
  case h_5 => exact driverStep_exit hl hd ▸ h

/-- A placed buffer meets `START`'s checks under the block's `MAXLEN` (R81, R139). -/
theorem packetInRam_of_placed (hplaced : bufferPlaced s.params = true) (hconf : s.radio.blockConfigured = true) :
    packetInRam s s.params.bufBase = true := by
  obtain ⟨⟨haligned, hlo⟩, hhi⟩ := (bufferPlaced_iff _).mp hplaced
  have hlen : payloadLength s s.params.bufBase ≤ 37 := maxlen_of_blockConfigured hconf ▸ Nat.min_le_right _ _
  rw [packetInRam_iff]
  omega

/-- A move within `transmit` that leaves the configuration registers and meets the new position is safe. -/
theorem BlockSafe.within_transmit {a : Word} {q : Seq} {v : Option Word} {r : Radio} {m j : Nat} (h : BlockSafe s)
    (hq : s.drv.seq = ⟨.transmit a, n, k⟩) (hq' : q = ⟨.transmit a, m, j⟩)
    (hr : r.blockConfigured = s.radio.blockConfigured)
    (hat : transmitPosition { s with drv := { s.drv with seq := q, v := v }, radio := r } m = true) :
    BlockSafe { s with drv := { s.drv with seq := q, v := v }, radio := r } := by
  obtain ⟨run, hloop, hstop, ha, -⟩ := (blockPosition_transmit hq).mp h.position
  have hloop' : looping { s with drv := { s.drv with seq := q, v := v }, radio := r } = true := by
    rw [looping, hr]
    exact hloop
  exact {
    noFault := h.noFault
    placed := h.placed
    counted := fun _ => h.counted (by rw [hq]; exact nofun)
    position := (blockPosition_transmit hq').mpr ⟨run, hloop', hstop, ha, hat⟩ }

/-- `transmit` line by line (R148). -/
theorem BlockSafe.of_transmit_step {a : Word} (h : BlockSafe s) (hq : s.drv.seq = ⟨.transmit a, n, k⟩)
    (hd : driverStep s = .next u) : BlockSafe u := by
  obtain ⟨run, hloop, hstop, rfl, hat⟩ := (blockPosition_transmit hq).mp h.position
  obtain ⟨hset, hconf, -⟩ := looping_iff.mp hloop
  have hl : lineAt s = transmitLine s.params.bufBase s n := by simp only [lineAt, hq]
  have hnext : s.drv.seq.next = ⟨.transmit s.params.bufBase, n + 1, 0⟩ := by rw [hq]; rfl
  unfold transmitLine at hl
  split at hl
  case h_1 =>
    rw [if_pos hset] at hl
    cases (driverStep_compute hl).symm.trans hd
    exact h.within_transmit hq hnext rfl hat
  case h_2 =>
    cases (driverStep_of_issue hl rfl rfl).symm.trans hd
    exact h.within_transmit hq hnext rfl (Bool.and_eq_true_iff.mpr ⟨hat, decide_eq_true rfl⟩)
  case h_3 | h_4 =>
    cases (driverStep_of_issue hl rfl rfl).symm.trans hd
    exact h.within_transmit hq hnext rfl (Bool.and_eq_true_iff.mpr ⟨hat, rfl⟩)
  case h_5 =>
    simp only [transmitPosition, Bool.and_eq_true, decide_eq_true_eq, Bool.not_eq_true', radioSteady_iff] at hat
    obtain ⟨⟨⟨hrs | hrs, hptr⟩, hready⟩, hend⟩ := hat
    · cases (driverStep_of_issue hl rfl ((txenByRadioState s).1 hrs)).symm.trans hd
      exact h.within_transmit hq hnext rfl (by simp [transmitPosition, hptr, hready, hend])
    · cases (driverStep_of_issue hl rfl ((txenByRadioState s).2.1 hrs)).symm.trans hd
      exact h
  case h_6 =>
    cases hflag : s.radio.eventsReady with
    | false =>
      cases (driverStep_await_clear h.noFault hl hflag).symm.trans hd
      exact h.within_transmit hq hq rfl hat
    | true =>
      cases (driverStep_await_set h.noFault hl hflag).symm.trans hd
      simp only [transmitPosition, hflag, Bool.not_true, Bool.and_false, Bool.false_or, Bool.and_true] at hat
      exact h.within_transmit hq hnext rfl hat
  case h_7 =>
    cases (driverStep_of_issue hl rfl rfl).symm.trans hd
    exact h.within_transmit hq hnext rfl hat
  case h_8 =>
    simp only [transmitPosition, Bool.and_eq_true, decide_eq_true_eq, Bool.not_eq_true'] at hat
    obtain ⟨⟨hptr, hend⟩, hrs⟩ := hat
    have hx := exec_start_of_packet hrs hptr (packetInRam_of_placed h.placed hconf)
    cases (driverStep_of_issue hl rfl hx).symm.trans hd
    exact h.within_transmit hq hnext rfl ((Bool.not_eq_true' _).mpr hend)
  case h_9 =>
    rcases transmitPosition_sending hat with ⟨l, hrs, hflag⟩ | ⟨hrs, hflag⟩
    · cases (driverStep_await_clear h.noFault hl hflag).symm.trans hd
      exact h.within_transmit hq hq rfl hat
    · cases (driverStep_await_set h.noFault hl hflag).symm.trans hd
      exact h.within_transmit hq hnext rfl (decide_eq_true hrs)
  case h_10 =>
    have hrs : s.radio.rs = .ended := of_decide_eq_true hat
    cases (driverStep_of_issue hl rfl ((disableOnlyInEnded s).1 hrs)).symm.trans hd
    exact h.within_transmit hq hnext rfl (radioSteady_iff.mpr (.inr rfl))
  case h_11 =>
    cases (driverStep_compute hl).symm.trans hd
    have hmain := (mainPosition_loop (n := 9) (by decide) (by decide)).mpr ⟨hloop, hat, hstop⟩
    exact h.of_return (d := s.drv) hd (by rw [hq]; exact nofun) run.1 run.2 rfl hmain
  case h_12 => exact driverStep_exit hl hd ▸ h

/-- A move within `delay_ms` that meets the new position is safe. -/
theorem BlockSafe.within_delayMs {ms : Word} {q : Seq} {nMs v : Option Word} {tm : Timer} {m j : Nat} (h : BlockSafe s)
    (hq : s.drv.seq = ⟨.delayMs ms, n, k⟩) (hq' : q = ⟨.delayMs ms, m, j⟩)
    (hat : delayPosition { s with drv := { s.drv with seq := q, nMs := nMs, v := v }, timer := tm } m = true) :
    BlockSafe { s with drv := { s.drv with seq := q, nMs := nMs, v := v }, timer := tm } := by
  obtain ⟨run, hloop, hrest, hms, -⟩ := (blockPosition_delayMs hq).mp h.position
  exact {
    noFault := h.noFault
    placed := h.placed
    counted := fun _ => h.counted (by rw [hq]; exact nofun)
    position := (blockPosition_delayMs hq').mpr ⟨run, hloop, hrest, hms, hat⟩ }

/-- `delay_ms` line by line (R221); its argument is 100, whose target fits. -/
theorem BlockSafe.of_delayMs {ms : Word} (h : BlockSafe s) (hq : s.drv.seq = ⟨.delayMs ms, n, k⟩)
    (hd : driverStep s = .next u) : BlockSafe u := by
  obtain ⟨run, hloop, hrest, rfl, hat⟩ := (blockPosition_delayMs hq).mp h.position
  obtain ⟨-, -, hready, -⟩ := looping_iff.mp hloop
  obtain ⟨target, hfit⟩ : ∃ target, compareTarget Config.advertisingMs = some target :=
    ⟨_, compareTarget_of_lt (by decide)⟩
  have hl : lineAt s = delayMsLine Config.advertisingMs s n := by simp only [lineAt, hq]
  have hnext : s.drv.seq.next = ⟨.delayMs Config.advertisingMs, n + 1, 0⟩ := by rw [hq]; rfl
  unfold delayMsLine at hl
  split at hl
  case h_1 =>
    rw [if_pos hready] at hl
    cases (driverStep_compute hl).symm.trans hd
    exact h.within_delayMs hq hnext hat
  case h_2 =>
    simp only [hfit] at hl
    cases (driverStep_compute hl).symm.trans hd
    exact h.within_delayMs hq hnext (Bool.and_eq_true_iff.mpr ⟨hat, decide_eq_true rfl⟩)
  case h_3 | h_5 =>
    cases (driverStep_of_issue hl rfl rfl).symm.trans hd
    exact h.within_delayMs hq hnext hat
  case h_4 =>
    obtain ⟨hstop, hms⟩ := Bool.and_eq_true_iff.mp hat
    simp only [of_decide_eq_true hms, hfit] at hl
    cases (driverStep_of_issue hl rfl rfl).symm.trans hd
    exact h.within_delayMs hq hnext hstop
  case h_6 | h_8 =>
    cases (driverStep_of_issue hl rfl rfl).symm.trans hd
    exact h.within_delayMs hq hnext rfl
  case h_7 =>
    cases hflag : s.timer.eventsCompare0 with
    | false =>
      cases (driverStep_await_clear h.noFault hl hflag).symm.trans hd
      exact h.within_delayMs hq hq rfl
    | true =>
      cases (driverStep_await_set h.noFault hl hflag).symm.trans hd
      exact h.within_delayMs hq hnext rfl
  case h_9 =>
    cases (driverStep_compute hl).symm.trans hd
    have hmain := (mainPosition_loop (n := 12) (by decide) le_rfl).mpr ⟨hloop, hrest, (Bool.not_eq_true' _).mp hat⟩
    exact h.of_return (d := s.drv) hd (by rw [hq]; exact nofun) run.1 run.2 rfl hmain
  case h_10 => exact driverStep_exit hl hd ▸ h

/-- Each step of the DRIVER, by the procedure it is in; a halted DRIVER has none. -/
theorem BlockSafe.of_driverStep (h : BlockSafe s) (he : driverEnabled s = true) (hd : driverStep s = .next u) :
    BlockSafe u := by
  have hpos := h.position
  rcases hq : s.drv.seq with ⟨proc, n, k⟩
  cases proc with
  | main => exact h.of_main hq hd
  | configure => exact h.of_configure hq hd
  | transmit a => exact h.of_transmit_step hq hd
  | encode name => exact h.of_encode hq hd
  | timerInit => exact h.of_timerInit hq hd
  | delayMs ms => exact h.of_delayMs hq hd
  | halt => simp [((blockPosition_halt hq).mp hpos).1, driverEnabled] at he
  | foreign => simp [blockPosition, hq] at hpos

/-! ## The RADIO and the TIMER -/

/-- Where the radio has not left `Enabling`, `transmit` is at its first wait. -/
theorem transmitPosition_enabling (h : transmitPosition s n = true) (hrs : s.radio.rs = .enabling) : n = 5 := by
  unfold transmitPosition at h
  split at h <;> simp_all [radioSteady]

theorem radioSteady_disableDone (s : State) : radioSteady (disableDone s) = true := radioSteady_iff.mpr (.inl rfl)

/-- `transmit` keeps its position while the radio comes to rest. -/
theorem transmitPosition_disableDone (h : transmitPosition s n = true) (hrs : s.radio.rs = .disabled) :
    transmitPosition (disableDone s) n = true := by
  unfold transmitPosition at h ⊢
  split at h <;> simp_all [radioSteady, disableDone]

/-- Where the radio is `Disabled`, `main` is in its loop or past it, and keeps its position while the radio comes to rest. -/
theorem mainPosition_disableDone (h : mainPosition s n = true) (hrs : s.radio.rs = .disabled) :
    mainPosition (disableDone s) n = true := by
  have hrest := radioSteady_disableDone s
  by_cases hn : 7 ≤ n ∧ n ≤ 12
  · obtain ⟨hloop, -, hstop⟩ := (mainPosition_loop hn.1 hn.2).mp h
    exact (mainPosition_loop (s := disableDone s) hn.1 hn.2).mpr ⟨hloop, hrest, hstop⟩
  by_cases hexit : n = 13
  · subst hexit
    obtain ⟨⟨hloop, -, hstop⟩, hk⟩ := mainPosition_exit.mp h
    exact mainPosition_exit.mpr ⟨⟨hloop, hrest, hstop⟩, hk⟩
  · unfold mainPosition at h
    split at h <;> simp_all [unconfigured, configuredOnly]

/-- `DisableDone` brings the radio to rest; where it is `Disabled` the program is in its loop. -/
theorem blockPosition_disableDone (h : BlockSafe s) (hrs : s.radio.rs = .disabled) :
    blockPosition (disableDone s) = true := by
  have hpos := h.position
  have hrest := radioSteady_disableDone s
  rcases hq : s.drv.seq with ⟨proc, n, k⟩
  have hq' : (disableDone s).drv.seq = ⟨proc, n, k⟩ := hq
  cases proc with
  | main =>
    obtain ⟨run, hat⟩ := (blockPosition_main hq).mp hpos
    exact (blockPosition_main hq').mpr ⟨run, mainPosition_disableDone hat hrs⟩
  | transmit a =>
    obtain ⟨run, hloop, hstop, ha, hat⟩ := (blockPosition_transmit hq).mp hpos
    exact (blockPosition_transmit hq').mpr ⟨run, hloop, hstop, ha, transmitPosition_disableDone hat hrs⟩
  | delayMs ms =>
    obtain ⟨run, hloop, -, hms, hat⟩ := (blockPosition_delayMs hq).mp hpos
    exact (blockPosition_delayMs hq').mpr ⟨run, hloop, hrest, hms, hat⟩
  | configure => simp [blockPosition_configure hq, unconfigured_iff, hrs] at hpos
  | encode name => simp [blockPosition_encode hq, configuredOnly_iff, hrs] at hpos
  | timerInit => simp [blockPosition_timerInit hq, configuredOnly_iff, hrs] at hpos
  | halt => simp [blockPosition_halt hq, configuredOnly_iff, hrs] at hpos
  | foreign => simp [blockPosition, hq] at hpos

/-- A radio that is not at rest is `transmit`'s. -/
theorem BlockSafe.transmit_of_busy (h : BlockSafe s) (hbusy : ¬(s.radio.rs = .idle ∨ s.radio.rs = .disabled)) :
    ∃ n k, s.drv.seq = ⟨.transmit s.params.bufBase, n, k⟩ := by
  obtain ⟨hp, -⟩ := h.resting_or_transmit.resolve_left hbusy
  exact ⟨_, _, by rw [← hp]⟩

/-- `RampUpDone` ends the first wait of `transmit`. -/
theorem blockPosition_rampUpDone (h : BlockSafe s) (hrs : s.radio.rs = .enabling) : blockPosition (rampUpDone s) = true := by
  obtain ⟨n, k, hq⟩ := h.transmit_of_busy (by simp [hrs])
  obtain ⟨run, hloop, hstop, ha, hat⟩ := (blockPosition_transmit hq).mp h.position
  obtain rfl := transmitPosition_enabling hat hrs
  refine (blockPosition_transmit (s := rampUpDone s) hq).mpr ⟨run, hloop, hstop, ha, ?_⟩
  simp_all [transmitPosition, rampUpDone]

/-- `TxDone` ends the second. -/
theorem blockPosition_txDone {l : Latch} (h : BlockSafe s) (hrs : s.radio.rs = .transmitting l) :
    blockPosition (txDone l s) = true := by
  obtain ⟨n, k, hq⟩ := h.transmit_of_busy (by simp [hrs])
  obtain ⟨run, hloop, hstop, ha, hat⟩ := (blockPosition_transmit hq).mp h.position
  obtain rfl := transmitPosition_transmitting hat hrs
  exact (blockPosition_transmit (s := txDone l s) hq).mpr ⟨run, hloop, hstop, ha, rfl⟩

/-- A RADIO step keeps the position. -/
theorem BlockSafe.of_radioStep (h : BlockSafe s) (he : radioEnabled s = true) : BlockSafe (radioStep s) := by
  rcases radioStep_cases he with ⟨hrs, hx⟩ | ⟨l, hrs, hx⟩ | ⟨hrs, hx⟩ <;> rw [hx]
  · exact { h with position := blockPosition_rampUpDone h hrs }
  · exact { h with position := blockPosition_txDone h hrs }
  · exact { h with position := blockPosition_disableDone h hrs }

theorem BlockSafe.of_tick (h : BlockSafe s) : BlockSafe (tick s) := { h with }

theorem BlockSafe.of_passTurn (h : BlockSafe s) : BlockSafe s.passTurn := { h with }

/-- A step of any agent keeps `BlockSafe`. -/
theorem BlockSafe.of_step (h : BlockSafe s) (hst : step s = .next u) : BlockSafe u := by
  obtain ⟨-, ⟨-, he, u, hu, rfl⟩ | ⟨-, he, rfl⟩ | ⟨-, -, rfl⟩ | rfl⟩ := step_cases s _ hst
  · exact (h.of_driverStep he hu).of_passTurn
  · exact (h.of_radioStep he).of_passTurn
  · exact h.of_tick.of_passTurn
  · exact h.of_passTurn

end

end Sys2Proof.Safety


/-!
PROOFS. Runs of the block's own program that end (45_transmit_loop.md R240, R241): the invariants along a run, the reports offered
by `K` iterations, and what an ended run has sent.
-/

namespace Sys2Proof.Safety

open Sys2Proof.Machine

section
variable {s t : State} {K : Nat}

/-- What every step keeps holds at the end of a run. -/
theorem runSteps_keeps {P : State → Prop} (keep : ∀ u v, P u → step u = .next v → P v) {n : Nat} (start : P s)
    (hrun : Claims.runSteps n s = .next t) : P t := by
  induction n generalizing s with
  | zero => cases hrun; exact start
  | succ n ih =>
    simp only [Claims.runSteps, Host.Core.run] at hrun
    split at hrun
    next u hst => exact ih (keep s u start hst) hrun
    all_goals cases hrun

/-- A run of the block's own program has the invariants of its steps and the parameters of its launch. -/
theorem Launch.run_invariants {n : Nat} (h : Launch s) (hrun : Claims.runSteps n s = .next t) :
    BlockSafe t ∧ BlockOutput t ∧ t.params = s.params := by
  refine runSteps_keeps (P := fun u => BlockSafe u ∧ BlockOutput u ∧ u.params = s.params) ?_
    ⟨h.blockSafe, h.blockOutput, rfl⟩ hrun
  rintro u v ⟨hs, ho, hparams⟩ hst
  exact ⟨hs.of_step hst, everyStepKeepsBlockOutput u v hs ho hst, (programAndParametersNeverChange u v hst).2.trans hparams⟩

/-- Up to 2^32 iterations, every hundredth count is due for a report (R233). -/
theorem reportsOffered_eq (hK : K < 2 ^ 32) :
    reportsOffered K = (List.range (K / 100)).map fun j => Report.mk (BitVec.ofNat 32 (100 * (j + 1))) := by
  induction K with
  | zero => rfl
  | succ K ih =>
    rw [reportsOffered_succ, ih (by omega), BitVec.toNat_ofNat, Nat.mod_eq_of_lt hK, Nat.succ_div, Config.reportEvery]
    by_cases hdue : (K + 1) % 100 = 0
    · have hcount : 100 * (K / 100 + 1) = K + 1 := by omega
      rw [if_pos hdue, if_pos (Nat.dvd_of_mod_eq_zero hdue), List.range_succ, List.map_append, List.map_singleton, hcount]
    · rw [if_neg hdue, if_neg (mt Nat.mod_eq_zero_of_dvd hdue), List.append_nil, Nat.add_zero]

/-- At the end of `main` the iterations are `K`, and each has sent, counted and offered what is its due (R241). -/
theorem BlockSafe.ended_counts (h : BlockSafe s) (hend : s.drv.seq = Seq.exit) (hK : s.params.loopBound = some K) :
    counts s = (K, K, K) := by
  obtain ⟨-, hat⟩ := (blockPosition_main (n := 13) hend).mp h.position
  obtain ⟨-, hiter⟩ := mainPosition_exit.mp hat
  simp [counts, framesSent, callsCounted, reportsPassed, iterationsDone, hend, Seq.exit, ← hiter, hK]

end

/-- Settles O59: the invariants hold along the run, and at its end they speak of `K` iterations. -/
theorem endedRunSentKFrames : Obligations.EndedRunSentKFrames := by
  rintro s t n K hlaunch hrun ⟨hend, -⟩ hK hlt
  obtain ⟨hs, ho, hparams⟩ := hlaunch.run_invariants hrun
  rw [← hparams] at hK ⊢
  have hcounts := hs.ended_counts hend hK
  simp only [counts, Prod.mk.injEq] at hcounts
  obtain ⟨hframes, hcalls, hreports⟩ := hcounts
  refine ⟨?_, ?_, ?_, fun j hj => ?_⟩
  · rw [ho.air, hframes]
  · rw [ho.counter (by rw [hend]; exact nofun), hcalls]
  · rw [← reportsOffered_eq hlt, ← hreports]
    exact ho.reports
  · rw [← encodeBytes_eq_pduBytes]
    exact holdsPdu_iff.mp (ho.holdsPdu_of_main (by rw [hend]; rfl) (.inl (by rw [hend]; decide))) j hj

end Sys2Proof.Safety

/-!
PROOFS. Faults (60_exceptions.md): the calls out of order and the delay that does not fit, what a step that raises a fault leaves, and
runs of the block's own program, which raise none.
-/

namespace Sys2Proof.Machine

/-! ## Checks of the program text (R250, R251) -/

section
variable {s : State} {n : Word}

/-- On its turn a running DRIVER at a line that raises a fault sets the mark. -/
theorem step_raise {m : FaultMark} (h : Claims.driverMoves s) (hl : lineAt s = .raise m s) :
    step s = .next ({ s with fault := some m } : State).passTurn := by
  rw [step_compute h hl, State.raise_eq m s h.1]

/-- From 2^32 ticks on a delay has no target (R222). -/
theorem compareTarget_of_le (h : 2 ^ 32 ≤ n.toNat * 1000) : compareTarget n = none := if_pos h

end

/-- Settles O43: each call checks its order at its line 0. -/
theorem callsOutOfOrderFault : Obligations.CallsOutOfOrderFault := by
  intro s hmoves
  refine ⟨fun a hq hset => ?_, fun hq hset => ?_, fun n hq hready => ?_⟩
  · exact step_raise hmoves (by simp [lineAt, hq, transmitLine, hset])
  · exact step_raise hmoves (by simp [lineAt, hq, configureLine, hset])
  · exact step_raise hmoves (by simp [lineAt, hq, delayMsLine, hready])

/-- Settles O38: line 1 of `delay_ms` checks the target. -/
theorem delayOverflowFaults : Obligations.DelayOverflowFaults := by
  intro s n hmoves hq hn
  have htarget : compareTarget n = none := compareTarget_of_le (by omega)
  exact step_raise hmoves (by simp [lineAt, hq, delayMsLine, htarget])

/-! ## Precision (R256) -/

/-- `t` has the fault mark of `s`, or is `s` with a mark raised and no other effect. -/
def FaultsPrecisely (s t : State) : Prop := t.fault = s.fault ∨ ∃ m, t = s.raise m

/-- A line whose local computation faults precisely. -/
def Line.Precise (s : State) : Line → Prop
  | .compute t => FaultsPrecisely s t
  | .op _ | .poll _ | .exit => True

section
variable {s t : State}

@[simp] theorem Line.exit_precise : Line.exit.Precise s := trivial
@[simp] theorem Line.op_precise (c : Code) : (Line.op c).Precise s := trivial
@[simp] theorem Line.issue_precise (i : Instr) : (Line.issue i).Precise s := trivial
@[simp] theorem Line.await_precise (e : Event) : (Line.await e).Precise s := trivial
@[simp] theorem Line.raise_precise (m : FaultMark) : (Line.raise m s).Precise s := .inr ⟨m, rfl⟩
@[simp] theorem Line.compute_precise : (Line.compute t).Precise s ↔ FaultsPrecisely s t := Iff.rfl

/-- A computation of the program text raises a fault or leaves the mark: line by line, procedure by procedure. -/
theorem lineAt_precise (s : State) : (lineAt s).Precise s := by
  unfold lineAt mainLine configureLine transmitLine encodeLine timerInitLine delayMsLine foreignLine
  repeat' split
  all_goals simp [FaultsPrecisely]

@[simp] theorem effect_fault (i : Instr) (s : State) : (effect i s).fault = s.fault := by
  obtain ⟨_, _, _, h⟩ := effect_frame i s
  rw [h]

theorem exec_faultsPrecisely {i : Instr} (h : exec i s = .next t) : FaultsPrecisely s t := by
  rcases exec_faultsOrActs h with hraise | ⟨-, d, rfl⟩
  · exact .inr hraise
  · exact .inl (effect_fault i s)

theorem runCode_faultsPrecisely {c : Code} (h : runCode c s = .next t) : FaultsPrecisely s t := by
  rcases runCode_cases c s with ⟨-, hx⟩ | ⟨i, -, hx⟩
  · cases hx.symm.trans h
    exact .inr ⟨_, rfl⟩
  · exact exec_faultsPrecisely (hx.symm.trans h)

theorem driverStep_faultsPrecisely (hf : s.fault = none) (h : driverStep s = .next t) : FaultsPrecisely s t := by
  have hline := lineAt_precise s
  have hpolls := lineAt_contained s
  rcases driverStep_cases _ _ h with ⟨-, rfl⟩ | hl | ⟨c, -, hr⟩ | ⟨c, u, hl, -, -⟩
  · exact .inl rfl
  · rwa [hl] at hline
  · exact runCode_faultsPrecisely hr
  · rw [hl] at hpolls
    obtain ⟨e, rfl⟩ := hpolls
    cases (driverStep_await hf hl).symm.trans h
    exact .inl (by split <;> rfl)

theorem radioStep_fault (s : State) : (radioStep s).fault = s.fault := by rw [radioStep_eq]

end

/-- Settles O46: only the DRIVER's step raises a fault, and it raises it precisely. -/
theorem faultsArePrecise : Obligations.FaultsArePrecise := by
  intro s t m hst hm
  obtain ⟨hf, ⟨-, -, u, hu, rfl⟩ | ⟨-, -, rfl⟩ | ⟨-, -, rfl⟩ | rfl⟩ := step_cases s t hst
  · rw [State.passTurn_fault] at hm
    rcases driverStep_faultsPrecisely hf hu with hsame | ⟨k, rfl⟩
    · simp [hsame, hf] at hm
    · obtain rfl : k = m := by simpa [hf] using hm
      rw [State.raise_eq k s hf]
  · simp [radioStep_fault, hf] at hm
  · simp [tick, hf] at hm
  · simp [hf] at hm

end Sys2Proof.Machine

namespace Sys2Proof.Safety

open Sys2Proof.Machine

/-! ## The block's own program (R246) -/

/-- Settles O56: the DRIVER's lines procedure by procedure, and the steps of the RADIO and the TIMER. -/
theorem everyStepKeepsBlockSafe : Obligations.EveryStepKeepsBlockSafe := fun _ _ h => h.of_step

section
variable {s : State}

/-- The DRIVER is halted only after the rejection of a long name, with the hardware at rest (R238). -/
theorem BlockSafe.of_halted (h : BlockSafe s) (hm : s.drv.mode = .halted) :
    configuredOnly s = true ∧ nameFits s.params.name = false := by
  have hpos := h.position
  unfold blockPosition at hpos
  split at hpos
  case h_7 => simpa [hm] using hpos
  all_goals simp [hm] at hpos

theorem BlockSafe.halted_name (h : BlockSafe s) (hm : s.drv.mode = .halted) : 26 < s.params.name.length := by
  obtain ⟨-, hlong⟩ := h.of_halted hm
  exact not_le.mp fun hfit => by simp [(nameFits_iff _).mpr hfit] at hlong

/-- The machine stops as soon as the DRIVER is halted (R252). -/
theorem BlockSafe.step_of_halted (h : BlockSafe s) (hm : s.drv.mode = .halted) : step s = .fault .fatalHalt := by
  obtain ⟨hconf, -⟩ := h.of_halted hm
  obtain ⟨-, -, -, hrs, hstop⟩ := configuredOnly_iff.mp hconf
  exact step_fatalHalt h.noFault hm (by simp [radioEnabled, hrs]) hstop

/-- A run of the block's own program goes on safely, or stops in the fatal halt on a long name. -/
theorem BlockSafe.runSteps_safe_or_fatal (h : BlockSafe s) (n : Nat) :
    (∃ t, Claims.runSteps n s = .next t ∧ BlockSafe t ∧ t.params = s.params) ∨
      Claims.runSteps n s = .fault .fatalHalt ∧ 26 < s.params.name.length := by
  induction n generalizing s with
  | zero => exact .inl ⟨s, rfl, h, rfl⟩
  | succ n ih =>
    cases hm : s.drv.mode with
    | running =>
      obtain ⟨t, ht⟩ := step_hasNext h.noFault (.inl hm)
      obtain ⟨-, hparams⟩ := programAndParametersNeverChange s t ht
      simpa only [Claims.runSteps, run_of_next n ht, hparams] using ih (h.of_step ht)
    | halted => exact .inr ⟨run_of_fault n (h.step_of_halted hm), h.halted_name hm⟩

end

/-- Settles O58: a launch state is safe, and every run from a safe state stays safe or stops in the fatal halt. -/
theorem blockProgramNeverFaults : Obligations.BlockProgramNeverFaults := by
  intro s n hlaunch
  rcases hlaunch.blockSafe.runSteps_safe_or_fatal n with ⟨t, hrun, ht, hparams⟩ | ⟨hrun, hlong⟩ <;> rw [hrun]
  · exact ⟨ht.noFault, fun hm => hparams ▸ ht.halted_name hm⟩
  · exact ⟨rfl, hlong⟩

end Sys2Proof.Safety

/-!
PROOFS. Noninterference (70_reset_and_hazards.md R275): the text of the program does not look at the hardware, an operation of the
block carries over only what both runs have in common, and what the launch leaves open is written by the program before it is
read. So two runs of the block's own program from different launch draws stay alike.
-/

namespace Sys2Proof.Machine

/-! ## The same program on other hardware -/

/-- `s` with the registers, the counter and the RAM of `hw`. -/
def State.withHardware (s hw : State) : State := { s with radio := hw.radio, timer := hw.timer, ram := hw.ram }

/-- A line with the hardware of `hw` in the state it leaves. -/
def Line.withHardware (hw : State) : Line → Line
  | .compute t => .compute (t.withHardware hw)
  | l => l

section
variable {s t u hw : State} {i : Instr}

@[simp] theorem State.withHardware_drv : (s.withHardware hw).drv = s.drv := rfl
@[simp] theorem State.withHardware_params : (s.withHardware hw).params = s.params := rfl
@[simp] theorem State.withHardware_text : (s.withHardware hw).text = s.text := rfl
@[simp] theorem State.withHardware_setDrv (d : Driver) : (s.withHardware hw).setDrv d = (s.setDrv d).withHardware hw := rfl
@[simp] theorem State.withHardware_setSeq (q : Seq) : (s.withHardware hw).setSeq q = (s.setSeq q).withHardware hw := rfl
@[simp] theorem State.withHardware_advance : (s.withHardware hw).advance = s.advance.withHardware hw := rfl

@[simp] theorem State.withHardware_ret : (s.withHardware hw).ret = s.ret.withHardware hw := by
  unfold State.ret
  simp only [withHardware_drv]
  split <;> rfl

@[simp] theorem State.withHardware_raise (m : FaultMark) : (s.withHardware hw).raise m = (s.raise m).withHardware hw := by
  obtain ⟨_, _, _, _, _, _, _ | _, _, _, _, _⟩ := s <;> rfl

@[simp] theorem State.withHardware_emitReport (c : Word) :
    (s.withHardware hw).emitReport c = (s.emitReport c).withHardware hw := by
  cases hk : Config.logKept s.clock <;> simp [emitReport, withHardware, hk]

@[simp] theorem Line.withHardware_compute : (Line.compute t).withHardware hw = .compute (t.withHardware hw) := rfl
@[simp] theorem Line.withHardware_op (c : Code) : (Line.op c).withHardware hw = .op c := rfl
@[simp] theorem Line.withHardware_issue : (Line.issue i).withHardware hw = .issue i := rfl
@[simp] theorem Line.withHardware_await (e : Event) : (Line.await e).withHardware hw = .await e := rfl
@[simp] theorem Line.withHardware_exit : Line.exit.withHardware hw = .exit := rfl
@[simp] theorem Line.withHardware_raise (m : FaultMark) : (Line.raise m s).withHardware hw = .raise m (s.withHardware hw) := by
  simp [Line.raise]

/-- The text of the program does not look at the hardware. -/
theorem lineAt_withHardware : lineAt (s.withHardware hw) = (lineAt s).withHardware hw := by
  unfold lineAt mainLine configureLine transmitLine encodeLine timerInitLine delayMsLine foreignLine
  simp only [State.withHardware_drv, State.withHardware_params, State.withHardware_text]
  repeat' split
  all_goals simp [encodeDone, *]

theorem lineAt_withHardware_exit : lineAt (s.withHardware hw) = .exit ↔ lineAt s = .exit := by
  rw [lineAt_withHardware]
  cases lineAt s <;> simp [Line.withHardware]

end

/-! ## What an operation reads

Without a fault, what an operation leaves in the DRIVER, the timer and RAM is a function of what stood there before, and of
whether the radio is `Disabled`; only the event reads take the DRIVER's `v` from elsewhere. -/

/-- The operation reads an event register. -/
def isEventRead : Instr → Bool
  | .rdRadioReady => true
  | .rdRadioEnd => true
  | .rdTimerCompare0 => true
  | _ => false

theorem isEventRead_eq_false_iff {i : Instr} :
    isEventRead i = false ↔ i ≠ .rdRadioReady ∧ i ≠ .rdRadioEnd ∧ i ≠ .rdTimerCompare0 := by
  cases i with
  | rdRadioReady | rdRadioEnd | rdTimerCompare0 => simp [isEventRead]
  | _ => exact ⟨fun _ => ⟨nofun, nofun, nofun⟩, fun _ => rfl⟩

/-- The DRIVER calls a procedure (R22). -/
def Driver.enter (p : Proc) (d : Driver) : Driver := { d with seq := ⟨p, p.firstLine, 0⟩, callers := d.seq.next :: d.callers }

/-- The DRIVER after an operation other than an event read that raises no fault, in a radio state. -/
def driverAfter (i : Instr) (rs : RadioState) (d : Driver) : Driver :=
  match i with
  | .trigRadioTxen _ => if rs = .disabled then d else { d with seq := d.seq.next }
  | .callMain => d.enter .main
  | .callConfigure => d.enter .configure
  | .callTransmit a => d.enter (.transmit a)
  | .callEncode name => d.enter (.encode name)
  | .callTimerInit => d.enter .timerInit
  | .callDelayMs n => d.enter (.delayMs n)
  | .halt => { d with mode := .halted, seq := ⟨.halt, 1, 0⟩ }
  | _ => { d with seq := d.seq.next }

theorem driverAfter_txen (data : Word) (rs : RadioState) (d : Driver) :
    driverAfter (.trigRadioTxen data) rs d = if rs = .disabled then d else { d with seq := d.seq.next } := rfl

/-- The timer after an operation that raises no fault. -/
def timerAfter (i : Instr) (tm : Timer) : Timer :=
  match i with
  | .trigTimerStart _ => { tm with running := true }
  | .trigTimerStop _ => { tm with running := false }
  | .trigTimerClear _ => { tm with count := 0 }
  | .clrTimerCompare0 _ => { tm with eventsCompare0 := false }
  | .wrTimerMode d => { tm with mode := d }
  | .wrTimerBitmode d => { tm with bitmode := d }
  | .wrTimerPrescaler d => { tm with prescaler := d }
  | .wrTimerCc0 t => { tm with cc := t }
  | _ => tm

/-- RAM after an operation that raises no fault. -/
def ramAfter (i : Instr) (m : Memory) : Memory :=
  match i with
  | .stb a d => Memory.write m a.toNat (dataByte d)
  | _ => m

section
variable {i : Instr} {s t : State}

theorem effect_timer (i : Instr) (s : State) : (effect i s).timer = timerAfter i s.timer := by
  cases i with
  | trigRadioTxen _ | trigRadioStart _ => simp only [effect]; split <;> rfl
  | _ => rfl

theorem effect_ram (i : Instr) (s : State) : (effect i s).ram = ramAfter i s.ram := by
  cases i with
  | trigRadioTxen _ | trigRadioStart _ => simp only [effect]; split <;> rfl
  | _ => rfl

theorem State.raise_fault_ne_none (m : FaultMark) (s : State) : (s.raise m).fault ≠ none :=
  Option.isSome_iff_ne_none.mp (State.raise_fault_isSome m s)

/-- An operation that raises no fault takes its effect and moves the DRIVER as its kind says. -/
theorem exec_eq_of_noFault (h : exec i s = .next t) (hf : t.fault = none) (hread : isEventRead i = false) :
    t = (effect i s).setDrv (driverAfter i s.radio.rs s.drv) := by
  have noRaise : ¬∃ m, t = s.raise m := by
    rintro ⟨m, rfl⟩
    exact State.raise_fault_ne_none m s hf
  cases i with
  | trigRadioTxen data =>
    rcases (execTrigRadioTxen_cases _ _ _ h).resolve_left noRaise with ⟨hrs, -, rfl⟩ | ⟨hrs, -, rfl⟩
    · simp [effect, driverAfter_txen, hrs, State.setDrv]
    · simp [effect, driverAfter_txen, hrs, State.setDrv, State.advance, State.setSeq]
  | trigRadioStart data =>
    obtain ⟨ptr, -, -, hp, -, rfl⟩ := (execTrigRadioStart_cases _ _ _ h).resolve_left noRaise
    simp only [effect, hp]
    rfl
  | trigRadioDisable data =>
    obtain ⟨-, -, rfl⟩ := (execTrigRadioDisable_cases _ _ _ h).resolve_left noRaise
    rfl
  | stb addr data =>
    obtain ⟨-, -, -, rfl⟩ := (execStb_cases _ _ _ _ h).resolve_left noRaise
    rfl
  | clrRadioReady _ | clrRadioEnd _ | clrTimerCompare0 _ =>
    obtain ⟨-, rfl⟩ := (clearEvent_cases _ _ _ _ _ h).resolve_left noRaise
    rfl
  | wrRadioFrequency _ | wrRadioTxpower _ | wrRadioMode _ | wrRadioPcnf0 _ | wrRadioPcnf1 _ | wrRadioBase0 _
  | wrRadioPrefix0 _ | wrRadioTxaddress _ | wrRadioCrccnf _ | wrRadioCrcpoly _ | wrRadioCrcinit _
  | wrRadioDatawhiteiv _ =>
    obtain ⟨-, -, rfl⟩ := (configWrite_cases _ _ _ _ _ _ h).resolve_left noRaise
    rfl
  | trigTimerStart _ | trigTimerStop _ | trigTimerClear _ =>
    obtain ⟨-, rfl⟩ := (timerTask_cases _ _ _ _ _ h).resolve_left noRaise
    rfl
  | wrTimerMode _ | wrTimerBitmode _ | wrTimerPrescaler _ =>
    obtain ⟨-, -, rfl⟩ := (timerConfigWrite_cases _ _ _ _ _ _ h).resolve_left noRaise
    rfl
  | wrRadioPacketptr _ | wrTimerCc0 _ | callMain | callConfigure | callTransmit _ | callEncode _ | callTimerInit
  | callDelayMs _ | halt => cases h; rfl
  | rdRadioReady | rdRadioEnd | rdTimerCompare0 => cases hread

/-! ## Which lines read an event -/

theorem writeCode_ne_readCode (a d a' : Word) : writeCode a d ≠ readCode a' := by
  intro h
  have hpack := congrArg unpackTransaction (Code.bus.inj h)
  simp at hpack

theorem encode_ne_readCode (hi : isEventRead i = false) (a : Word) : encode i ≠ readCode a := by
  cases i with
  | rdRadioReady | rdRadioEnd | rdTimerCompare0 => cases hi
  | callMain | callConfigure | callTransmit _ | callEncode _ | callTimerInit | callDelayMs _ | halt => exact nofun
  | _ => exact writeCode_ne_readCode _ _ a

/-- What shares its word with an operation that reads no event reads none. -/
theorem isEventRead_of_encode_eq {j : Instr} (h : encode j = encode i) (hi : isEventRead i = false) : isEventRead j = false := by
  cases j with
  | rdRadioReady | rdRadioEnd | rdTimerCompare0 => exact absurd h.symm (encode_ne_readCode hi _)
  | _ => rfl

theorem encodeStb_isEventRead {base : Word} {name : List Byte} {line sub : Nat} (h : encodeStb base name line sub = some i) :
    isEventRead i = false := by
  unfold encodeStb at h
  repeat' split at h
  all_goals cases h
  rfl

/-- The lines of the block's program that wait for an event: two of `transmit` (R148), one of `delay_ms` (R221). -/
def AwaitedAt (q : Seq) : Event → Prop
  | .radioReady => (∃ a, q.proc = .transmit a) ∧ q.line = 5
  | .radioEnd => (∃ a, q.proc = .transmit a) ∧ q.line = 8
  | .timerCompare0 => (∃ n, q.proc = .delayMs n) ∧ q.line = 6

/-- Events are read by a `WAIT` only, each at its lines. -/
def Line.ReadsAt (q : Seq) : Line → Prop
  | .op c => ∀ i, decode c = some i → isEventRead i = false
  | .poll c => ∃ e : Event, c = encode e.read ∧ AwaitedAt q e
  | .compute _ | .exit => True

section
variable {q : Seq}

@[simp] theorem Line.readsAt_exit : Line.exit.ReadsAt q := trivial
@[simp] theorem Line.readsAt_compute : (Line.compute t).ReadsAt q := trivial
@[simp] theorem Line.readsAt_raise (m : FaultMark) : (Line.raise m s).ReadsAt q := trivial

theorem encode_read_inj {e e' : Event} (h : encode e.read = encode e'.read) : e = e' := by
  cases e <;> cases e' <;> revert h <;> decide

@[simp] theorem Line.readsAt_await {e : Event} : (Line.await e).ReadsAt q ↔ AwaitedAt q e :=
  ⟨fun ⟨_, he, h⟩ => encode_read_inj he ▸ h, fun h => ⟨e, rfl, h⟩⟩

@[simp] theorem Line.readsAt_issue (hi : isEventRead i = false) : (Line.issue i).ReadsAt q :=
  fun _ hj => isEventRead_of_encode_eq (decodedWordIsItsEncoding _ _ hj) hi

end

theorem encodeLine_readsAt (name : List Byte) (line sub : Nat) : (encodeLine name s line sub).ReadsAt s.drv.seq := by
  unfold encodeLine
  split
  case h_3 =>
    split
    next => exact Line.readsAt_exit
    next hi => exact Line.readsAt_issue (encodeStb_isEventRead hi)
  all_goals repeat' split
  all_goals exact trivial

/-- The block's own program reads events at its waits only. -/
theorem lineAt_readsAt (hp : s.drv.seq.proc ≠ .foreign) : (lineAt s).ReadsAt s.drv.seq := by
  unfold lineAt mainLine configureLine transmitLine timerInitLine delayMsLine
  repeat' split
  all_goals simp_all [isEventRead_eq_false_iff, encodeLine_readsAt, Line.readsAt_await, AwaitedAt]

end

section
variable {i : Instr} {s t : State}

/-! ## Where the timer's cells are set -/

/-- No operation touches `timerReady`. -/
theorem exec_timerReady (h : exec i s = .next t) : t.drv.timerReady = s.drv.timerReady := by
  cases hp : isProcedure i with
  | false =>
    obtain ⟨_, _, -, hd⟩ := exec_driverGoes h hp
    rw [hd]
  | true =>
    cases i with
    | callMain | callConfigure | callTransmit _ | callEncode _ | callTimerInit | callDelayMs _ | halt => cases h; rfl
    | _ => cases hp

/-- A line's own computation sets `timerReady` at the last line of `timer_init` only. -/
def Line.SetsTimerReady (s : State) : Line → Prop
  | .compute t => t.drv.timerReady = s.drv.timerReady ∨ s.drv.seq.proc = .timerInit ∧ s.drv.seq.line = 4
  | .op _ | .poll _ | .exit => True

theorem lineAt_setsTimerReady (s : State) : (lineAt s).SetsTimerReady s := by
  unfold lineAt mainLine configureLine transmitLine encodeLine timerInitLine delayMsLine foreignLine
  repeat' split
  all_goals simp_all [Line.SetsTimerReady, Line.issue, Line.await, Line.raise, encodeDone]

theorem driverStep_timerReady (hf : s.fault = none) (h : driverStep s = .next t) :
    t.drv.timerReady = s.drv.timerReady ∨ s.drv.seq.proc = .timerInit ∧ s.drv.seq.line = 4 := by
  have hline := lineAt_setsTimerReady s
  have hpolls := lineAt_contained s
  rcases driverStep_cases _ _ h with ⟨-, rfl⟩ | hl | ⟨c, -, hr⟩ | ⟨c, u, hl, -, -⟩
  · exact .inl rfl
  · rwa [hl] at hline
  · rcases runCode_cases c s with ⟨-, hx⟩ | ⟨i, -, hx⟩
    · cases hx.symm.trans hr
      exact .inl (by rw [State.raise_drv])
    · exact .inl (exec_timerReady (hx.symm.trans hr))
  · rw [hl] at hpolls
    obtain ⟨e, rfl⟩ := hpolls
    cases (driverStep_await hf hl).symm.trans h
    exact .inl (by split <;> rfl)
end

/-! ## Cells, RAM and polling reads in two states -/

/-- `a'` and `b'` agree in every cell of the timer in which `a` and `b` do. -/
structure Timer.KeepsCells (a b a' b' : Timer) : Prop where
  running : a.running = b.running → a'.running = b'.running
  bitmode : a.bitmode = b.bitmode → a'.bitmode = b'.bitmode
  count : a.count = b.count → a'.count = b'.count
  cc : a.cc = b.cc → a'.cc = b'.cc
  eventsCompare0 : a.eventsCompare0 = b.eventsCompare0 → a'.eventsCompare0 = b'.eventsCompare0

theorem Timer.KeepsCells.refl (a b : Timer) : Timer.KeepsCells a b a b := ⟨id, id, id, id, id⟩

theorem timerAfter_keepsCells (i : Instr) (a b : Timer) : Timer.KeepsCells a b (timerAfter i a) (timerAfter i b) := by
  unfold timerAfter
  split <;> constructor <;> simp

/-- RAM at an address after the same operation on two canonical memories that agree there. -/
theorem ramAfter_read {m m' : Memory} {x : Nat} (i : Instr) (hwf : Memory.wf m = true) (hwf' : Memory.wf m' = true)
    (h : Memory.read m' x = Memory.read m x) : Memory.read (ramAfter i m') x = Memory.read (ramAfter i m) x := by
  unfold ramAfter
  split
  next a d =>
    by_cases hx : x = a.toNat
    · rw [hx, Memory.read_write _ _ _ hwf, Memory.read_write _ _ _ hwf']
    · rw [Memory.read_write_other _ _ _ _ hx, Memory.read_write_other _ _ _ _ hx, h]
  next => exact h

/-- The state after a polling read that finds the flag so. -/
def State.polled (flag : Bool) (s : State) : State :=
  if flag then ({ s with drv := { s.drv with v := some 1 } }).advance else { s with drv := { s.drv with v := some 0 } }

theorem State.withHardware_polled {s hw : State} (flag : Bool) :
    (s.withHardware hw).polled flag = (s.polled flag).withHardware hw := by
  cases flag <;> rfl

theorem LocalTo.polled (flag : Bool) (s : State) : LocalTo s (s.polled flag) := by
  cases flag <;> exact ⟨_, _, _, rfl⟩

end Sys2Proof.Machine

namespace Sys2Proof.Safety

open Sys2Proof.Machine

section
variable {s s' t t' : State}

/-- A running DRIVER is in `main` without a caller, or has one caller, a line of `main`. -/
theorem BlockSafe.callers_cases (h : BlockSafe s) (hm : s.drv.mode = .running) :
    (s.drv.callers = [] ∧ s.drv.seq.proc = .main) ∨ ∃ n, s.drv.callers = [⟨.main, n, 0⟩] := by
  have hpos := h.position
  unfold blockPosition at hpos
  split at hpos <;> simp_all

/-- A position past the first line of a procedure that runs straight through is reached from that line on, one by one. -/
theorem BlockSafe.comes_from (h : BlockSafe s) (hm : s.drv.mode = .running) (hd : driverStep s = .next t)
    (hp : t.drv.seq.proc.isStraight = true) (hn : t.drv.seq.proc.firstLine < t.drv.seq.line) :
    s.drv.seq.proc = t.drv.seq.proc ∧ t.drv.seq.line ≤ s.drv.seq.line + 1 := by
  obtain ⟨hmove, -⟩ := driverStep_driverMove hd
  have hcallers := h.callers_cases hm
  generalize hq : t.drv.seq = q at hmove hp hn ⊢
  generalize t.drv.callers = callers at hmove
  cases hmove with
  | within same =>
    rw [same] at hp
    obtain ⟨-, hseq | hseq | ⟨-, hback⟩⟩ := driverStep_straight hp hd
    · exact ⟨same.symm, by rw [← hq, hseq]; omega⟩
    · have hnext : s.drv.seq.next.line = s.drv.seq.line + 1 := by
        rw [Seq.next_of_not_encode _ fun name hname => by rw [hname] at hp; cases hp]
      exact ⟨same.symm, by rw [← hq, hseq, hnext]⟩
    · rcases hcallers with ⟨-, hmain⟩ | ⟨n, hcall⟩
      · rw [hmain] at hp
        cases hp
      · obtain rfl : q = ⟨.main, n, 0⟩ := hq ▸ hback _ hcall
        rw [← same] at hp
        cases hp
  | ends ended => rcases ended with hproc | hproc <;> rw [hproc] at hp <;> cases hp
  | into p => exact absurd hn (Nat.lt_irrefl _)
  | back caller =>
    rcases hcallers with ⟨hnone, -⟩ | ⟨n, hcall⟩
    · cases hnone.symm.trans caller
    · cases hcall.symm.trans caller
      cases hp

/-! ## When the program has set a cell of the timer -/

/-- The DRIVER is past a line of `delay_ms`. -/
def DelayPast (s : State) (k : Nat) : Prop := (∃ n, s.drv.seq.proc = .delayMs n) ∧ k < s.drv.seq.line

/-- `timer_init` has set the counter's width. -/
def WidthSet (s : State) : Prop := s.drv.timerReady = true ∨ s.drv.seq.proc = .timerInit ∧ 2 < s.drv.seq.line

theorem BlockSafe.delayPast_cases {k : Nat} (h : BlockSafe s) (hm : s.drv.mode = .running) (hd : driverStep s = .next t)
    (ht : DelayPast t k) : DelayPast s k ∨ ∃ n j, s.drv.seq = ⟨.delayMs n, k, j⟩ := by
  obtain ⟨⟨n, hp⟩, hn⟩ := ht
  obtain ⟨hproc, hline⟩ := h.comes_from hm hd (by rw [hp]; rfl) (by rw [hp]; exact Nat.zero_lt_of_lt hn)
  rw [hp] at hproc
  rcases Nat.lt_or_ge k s.drv.seq.line with hpast | hat
  · exact .inl ⟨⟨n, hproc⟩, hpast⟩
  · obtain rfl : s.drv.seq.line = k := by omega
    exact .inr ⟨n, s.drv.seq.sub, by rw [← hproc]⟩

theorem BlockSafe.widthSet_cases (h : BlockSafe s) (hm : s.drv.mode = .running) (hd : driverStep s = .next t)
    (ht : WidthSet t) : WidthSet s ∨ ∃ j, s.drv.seq = ⟨.timerInit, 2, j⟩ := by
  rcases ht with hready | ⟨hp, hn⟩
  · rcases driverStep_timerReady h.noFault hd with hsame | ⟨hp, hn⟩
    · exact .inl (.inl (hsame ▸ hready))
    · exact .inl (.inr ⟨hp, by omega⟩)
  · obtain ⟨hproc, hline⟩ := h.comes_from hm hd (by rw [hp]; rfl) (by rw [hp]; exact Nat.lt_of_succ_lt hn)
    rw [hp] at hproc
    rcases Nat.lt_or_ge 2 s.drv.seq.line with hpast | hat
    · exact .inl (.inr ⟨hproc, hpast⟩)
    · obtain hat : s.drv.seq.line = 2 := by omega
      exact .inr ⟨s.drv.seq.sub, by rw [← hproc, ← hat]⟩

section
variable {n : Word} {j : Nat}

/-- Line 2 of `timer_init` sets the width (R220). -/
theorem BlockSafe.timerInit_sets_width (h : BlockSafe s) (hq : s.drv.seq = ⟨.timerInit, 2, j⟩) (hd : driverStep s = .next t) :
    t.timer.bitmode = wordTimerBitmode := by
  obtain ⟨-, hconf, -⟩ := (blockPosition_timerInit hq).mp h.position
  obtain ⟨-, -, -, -, hstop⟩ := configuredOnly_iff.mp hconf
  have hl : lineAt s = .issue (.wrTimerBitmode wordTimerBitmode) := by simp only [lineAt, hq, timerInitLine]
  cases (driverStep_of_issue hl rfl (timerConfigWrite_of_stopped hstop)).symm.trans hd
  rfl

/-- Line 2 of `delay_ms` clears the counter (R221). -/
theorem delayMs_clears_count (hq : s.drv.seq = ⟨.delayMs n, 2, j⟩) (hd : driverStep s = .next t) : t.timer.count = 0 := by
  have hl : lineAt s = .issue (.trigTimerClear taskWord) := by simp only [lineAt, hq, delayMsLine]
  cases (driverStep_of_issue hl rfl rfl).symm.trans hd
  rfl

/-- Line 3 sets the target of 100 ms. -/
theorem BlockSafe.delayMs_sets_target (h : BlockSafe s) (hq : s.drv.seq = ⟨.delayMs n, 3, j⟩) (hd : driverStep s = .next t) :
    t.timer.cc = delayTarget Config.advertisingMs := by
  obtain ⟨-, -, -, -, hat⟩ := (blockPosition_delayMs hq).mp h.position
  have hms : s.drv.nMs = some Config.advertisingMs := of_decide_eq_true (Bool.and_eq_true_iff.mp hat).2
  have hl : lineAt s = .issue (.wrTimerCc0 (delayTarget Config.advertisingMs)) := by
    simp only [lineAt, hq, delayMsLine, hms, compareTarget_of_lt (n := Config.advertisingMs) (by decide)]
  cases (driverStep_of_issue hl rfl rfl).symm.trans hd
  rfl

/-- Line 4 clears the event. -/
theorem delayMs_clears_compare0 (hq : s.drv.seq = ⟨.delayMs n, 4, j⟩) (hd : driverStep s = .next t) :
    t.timer.eventsCompare0 = false := by
  have hl : lineAt s = .issue (.clrTimerCompare0 clearWord) := by simp only [lineAt, hq, delayMsLine]
  cases (driverStep_of_issue hl rfl rfl).symm.trans hd
  rfl

end

/-- The timer runs only where `delay_ms` has set all its cells. -/
theorem BlockSafe.delayPast_of_running (h : BlockSafe s) (hrun : s.timer.running = true) : DelayPast s 5 ∧ WidthSet s := by
  have hpos := h.position
  rcases hq : s.drv.seq with ⟨proc, n, k⟩
  cases proc with
  | delayMs ms =>
    obtain ⟨-, hloop, -, -, hat⟩ := (blockPosition_delayMs hq).mp hpos
    obtain ⟨-, -, hready, -⟩ := looping_iff.mp hloop
    refine ⟨⟨⟨ms, by rw [hq]⟩, ?_⟩, .inl hready⟩
    rw [hq]
    unfold delayPosition at hat
    split at hat <;> simp_all
  | main =>
    obtain ⟨-, hat⟩ := (blockPosition_main hq).mp hpos
    unfold mainPosition at hat
    split at hat <;> simp_all [unconfigured, configuredOnly]
  | configure => simp [blockPosition_configure hq, unconfigured_iff, hrun] at hpos
  | encode name => simp [blockPosition_encode hq, configuredOnly_iff, hrun] at hpos
  | timerInit => simp [blockPosition_timerInit hq, configuredOnly_iff, hrun] at hpos
  | transmit a => simp [blockPosition_transmit hq, hrun] at hpos
  | halt => simp [blockPosition_halt hq, configuredOnly_iff, hrun] at hpos
  | foreign => simp [blockPosition, hq] at hpos

end

/-! ## Two runs side by side -/

/-- The timers agree in what the program has set: the running flag always, the width from `timer_init` on, and in `delay_ms` each
cell from the line that sets it on. -/
structure TimersAlike (s s' : State) : Prop where
  running : s'.timer.running = s.timer.running
  width : WidthSet s → s'.timer.bitmode = s.timer.bitmode
  count : DelayPast s 2 → s'.timer.count = s.timer.count
  target : DelayPast s 3 → s'.timer.cc = s.timer.cc
  compare0 : DelayPast s 4 → s'.timer.eventsCompare0 = s.timer.eventsCompare0

/-- The states differ at most in registers, counter and RAM, and agree there in the radio's state, the 39 bytes of the buffer and
what the program has set of the timer. -/
structure Alike (s s' : State) : Prop where
  shown : s' = s.withHardware s'
  radioState : s'.radio.rs = s.radio.rs
  buffer : ∀ j, j < 39 → Memory.read s'.ram (s.params.bufBase.toNat + j) = Memory.read s.ram (s.params.bufBase.toNat + j)
  timers : TimersAlike s s'

/-- Two states of the block's own program, alike. -/
structure Twins (s s' : State) : Prop where
  safe : BlockSafe s
  safe' : BlockSafe s'
  output : BlockOutput s
  output' : BlockOutput s'
  alike : Alike s s'

section
variable {s s' t t' : State} {i : Instr}

theorem Alike.drv (h : Alike s s') : s'.drv = s.drv := (congrArg State.drv h.shown :)
theorem Alike.params (h : Alike s s') : s'.params = s.params := (congrArg State.params h.shown :)
theorem Alike.nextAgent (h : Alike s s') : s'.nextAgent = s.nextAgent := (congrArg State.nextAgent h.shown :)

theorem Alike.lineAt (h : Alike s s') : lineAt s' = (lineAt s).withHardware s' :=
  (congrArg Machine.lineAt h.shown).trans lineAt_withHardware

/-- The same agents have a step. -/
theorem Alike.enabled (h : Alike s s') (a : Agent) : enabled s' a = enabled s a := by
  cases a with
  | driver =>
    have hexit : Machine.lineAt s' = .exit ↔ Machine.lineAt s = .exit := by rw [h.shown]; exact lineAt_withHardware_exit
    simp only [Safety.enabled, driverEnabled, h.drv, ne_eq, hexit]
  | radio => simp only [Safety.enabled, radioEnabled, h.radioState]
  | timer => exact h.timers.running

theorem Alike.passTurn (h : Alike s s') : Alike s.passTurn s'.passTurn where
  shown := congrArg State.passTurn h.shown
  radioState := h.radioState
  buffer := h.buffer
  timers := { h.timers with }

/-! ## The DRIVER's steps -/

/-- The timers stay alike by two DRIVER steps that keep cells alike: the lines that set a cell set it in both. -/
theorem Twins.timersAlike (h : Twins s s') (hm : s.drv.mode = .running) (hd : driverStep s = .next t)
    (hd' : driverStep s' = .next t') (hkeep : Timer.KeepsCells s'.timer s.timer t'.timer t.timer) : TimersAlike t t' := by
  obtain ⟨hs, hs', -, -, halike⟩ := h
  obtain ⟨running, width, count, target, compare0⟩ := halike.timers
  have hseq : s'.drv.seq = s.drv.seq := congrArg Driver.seq halike.drv
  refine ⟨hkeep.running running, fun ht => ?_, fun ht => ?_, fun ht => ?_, fun ht => ?_⟩
  · rcases hs.widthSet_cases hm hd ht with hset | ⟨j, hq⟩
    · exact hkeep.bitmode (width hset)
    · rw [hs.timerInit_sets_width hq hd, hs'.timerInit_sets_width (hseq.trans hq) hd']
  · rcases hs.delayPast_cases hm hd ht with hpast | ⟨n, j, hq⟩
    · exact hkeep.count (count hpast)
    · rw [delayMs_clears_count hq hd, delayMs_clears_count (hseq.trans hq) hd']
  · rcases hs.delayPast_cases hm hd ht with hpast | ⟨n, j, hq⟩
    · exact hkeep.cc (target hpast)
    · rw [hs.delayMs_sets_target hq hd, hs'.delayMs_sets_target (hseq.trans hq) hd']
  · rcases hs.delayPast_cases hm hd ht with hpast | ⟨n, j, hq⟩
    · exact hkeep.eventsCompare0 (compare0 hpast)
    · rw [delayMs_clears_compare0 hq hd, delayMs_clears_compare0 (hseq.trans hq) hd']

/-- A step that acts on the DRIVER, the log and the fault mark only. -/
theorem Twins.alike_of_localTo (h : Twins s s') (hm : s.drv.mode = .running) (hd : driverStep s = .next t)
    (hd' : driverStep s' = .next (t.withHardware s')) (hlocal : LocalTo s t) : Alike t (t.withHardware s') := by
  have htimers := h.timersAlike hm hd hd'
  obtain ⟨_, _, _, rfl⟩ := hlocal
  exact ⟨rfl, h.alike.radioState, h.alike.buffer, htimers (.refl _ _)⟩

/-- In a ready radio `START` latches the PDU. -/
theorem BlockSafe.effect_start (hs : BlockSafe s) (ho : BlockOutput s) (hrs : s.radio.rs = .ready) (data : Word) :
    (effect (.trigRadioStart data) s).radio.rs = .transmitting ⟨s.params.bufBase, encodeBytes s.params.name⟩ := by
  obtain ⟨hp, hloop, hat⟩ := hs.resting_or_transmit.resolve_left (by simp [hrs])
  obtain ⟨hconf, hfit, -⟩ := looping_facts hloop
  rw [← latchAt_bytes_eq_pdu (holdsPdu_of_transmit ho hp) hconf hfit]
  simp only [effect, transmitPosition_ready hat hrs]
  rfl

/-- The same operation takes the radio to the same state. -/
theorem Twins.effect_radioState (h : Twins s s') (hx : exec i s = .next t) (hf : t.fault = none) :
    (effect i s').radio.rs = (effect i s).radio.rs := by
  have hrs' := h.alike.radioState
  cases i with
  | trigRadioTxen data =>
    simp only [effect, hrs']
    split
    · rfl
    · exact hrs'
  | trigRadioStart data =>
    rcases execTrigRadioStart_cases _ _ _ hx with ⟨m, rfl⟩ | ⟨_, hrs, -⟩
    · exact absurd hf (State.raise_fault_ne_none m s)
    · rw [h.safe.effect_start h.output hrs, h.safe'.effect_start h.output' (hrs'.trans hrs), h.alike.params]
  | trigRadioDisable data => rfl
  | _ => exact hrs'

/-- An operation that raises no fault. -/
theorem Twins.alike_of_exec (h : Twins s s') (hm : s.drv.mode = .running) (hread : isEventRead i = false)
    (hd : driverStep s = .next t) (hd' : driverStep s' = .next t') (hx : exec i s = .next t) (hx' : exec i s' = .next t')
    (hf : t.fault = none) (hf' : t'.fault = none) : Alike t t' := by
  have hrs := h.effect_radioState hx hf
  have htimers := h.timersAlike hm hd hd'
  have ht := exec_eq_of_noFault hx hf hread
  have ht' := exec_eq_of_noFault hx' hf' hread
  rw [h.alike.radioState, h.alike.drv] at ht'
  subst ht ht'
  obtain ⟨r, tm, m, he⟩ := effect_frame i s
  obtain ⟨r', tm', m', he'⟩ := effect_frame i s'
  refine ⟨?_, hrs, fun j hj => ?_, htimers ?_⟩
  · rw [he, he']
    exact (congrArg (fun u : State => ({ u with radio := r', timer := tm', ram := m' } : State).setDrv _) h.alike.shown :)
  · simp only [State.setDrv_ram, State.setDrv_params, effect_params, effect_ram]
    exact ramAfter_read i h.output.canonical h.output'.canonical (h.alike.buffer j hj)
  · simp only [State.setDrv_timer, effect_timer]
    exact timerAfter_keepsCells i _ _

/-! ### The waits -/

/-- At the first wait of `transmit` the flag says whether the radio is ready. -/
theorem transmitPosition_waiting (h : transmitPosition s 5 = true) :
    s.radio.eventsReady = decide (s.radio.rs = .ready) := by
  simp only [transmitPosition, Bool.and_eq_true, Bool.or_eq_true, decide_eq_true_eq, Bool.not_eq_true'] at h
  obtain ⟨-, ⟨hrs, hflag⟩ | ⟨hrs, hflag⟩⟩ := h <;> simp [hrs, hflag]

/-- At the second, whether it has ended. -/
theorem transmitPosition_ending (h : transmitPosition s 8 = true) : s.radio.eventsEnd = decide (s.radio.rs = .ended) := by
  rcases transmitPosition_sending h with ⟨l, hrs, hflag⟩ | ⟨hrs, hflag⟩ <;> simp [hrs, hflag]

/-- Inside `transmit` both runs are at the same line, and each meets its position. -/
theorem Twins.transmitPositions {n : Nat} (h : Twins s s') (hp : ∃ a, s.drv.seq.proc = .transmit a) (hn : s.drv.seq.line = n) :
    transmitPosition s n = true ∧ transmitPosition s' n = true := by
  have hseq : s'.drv.seq = s.drv.seq := congrArg Driver.seq h.alike.drv
  obtain ⟨a, hp⟩ := hp
  obtain ⟨-, hat⟩ := h.safe.of_transmit hp
  obtain ⟨-, hat'⟩ := h.safe'.of_transmit (hseq ▸ hp)
  rw [hseq] at hat'
  exact hn ▸ ⟨hat, hat'⟩

/-- Where the program waits for an event, both runs read the same flag. -/
theorem Twins.eventFlag_eq {e : Event} (h : Twins s s') (hat : AwaitedAt s.drv.seq e) : s'.eventFlag e = s.eventFlag e := by
  have hrs := h.alike.radioState
  cases e with
  | radioReady =>
    obtain ⟨hwait, hwait'⟩ := h.transmitPositions hat.1 hat.2
    rw [State.eventFlag, transmitPosition_waiting hwait', hrs, State.eventFlag, transmitPosition_waiting hwait]
  | radioEnd =>
    obtain ⟨hwait, hwait'⟩ := h.transmitPositions hat.1 hat.2
    rw [State.eventFlag, transmitPosition_ending hwait', hrs, State.eventFlag, transmitPosition_ending hwait]
  | timerCompare0 =>
    obtain ⟨hp, hn⟩ := hat
    exact h.alike.timers.compare0 ⟨hp, by omega⟩

/-- A polling read. -/
theorem Twins.alike_of_await {e : Event} (h : Twins s s') (hm : s.drv.mode = .running) (hl : lineAt s = .await e)
    (hat : AwaitedAt s.drv.seq e) (hd : driverStep s = .next t) (hd' : driverStep s' = .next t') : Alike t t' := by
  have hl' : lineAt s' = .await e := by rw [h.alike.lineAt, hl, Line.withHardware_await]
  have hread : driverStep s = .next (s.polled (s.eventFlag e)) := driverStep_await h.safe.noFault hl
  have hread' : driverStep s' = .next (s'.polled (s'.eventFlag e)) := driverStep_await h.safe'.noFault hl'
  have hpoll : s'.polled (s'.eventFlag e) = (s.polled (s.eventFlag e)).withHardware s' := by
    rw [h.eventFlag_eq hat, ← State.withHardware_polled, ← h.alike.shown]
  rw [hpoll] at hread'
  cases hread.symm.trans hd
  cases hread'.symm.trans hd'
  exact h.alike_of_localTo hm hread hread' (LocalTo.polled _ s)

/-- A DRIVER step: the text gives both runs the same line. -/
theorem Twins.alike_of_driverStep (h : Twins s s') (he : driverEnabled s = true) (hd : driverStep s = .next t)
    (hd' : driverStep s' = .next t') (hf : t.fault = none) (hf' : t'.fault = none) : Alike t t' := by
  obtain ⟨hm, hline⟩ : s.drv.mode = .running ∧ lineAt s ≠ .exit := by simpa [driverEnabled] using he
  have hproc : s.drv.seq.proc ≠ .foreign := fun hp => by simpa [blockPosition, hp] using h.safe.position
  have hreads := lineAt_readsAt hproc
  have hlocal := lineAt_contained s
  have hl' := h.alike.lineAt
  cases hl : lineAt s with
  | exit => exact absurd hl hline
  | compute u =>
    rw [hl] at hl' hlocal
    cases (driverStep_compute hl).symm.trans hd
    cases (driverStep_compute hl').symm.trans hd'
    exact h.alike_of_localTo hm hd hd' hlocal
  | op c =>
    rw [hl] at hl' hreads
    have hr : runCode c s = .next t := by rw [← hd, driverStep, hl]
    have hr' : runCode c s' = .next t' := by rw [← hd', driverStep, hl', Line.withHardware_op]
    rcases runCode_cases c s with ⟨-, hx⟩ | ⟨i, hi, hx⟩
    · cases hx.symm.trans hr
      exact absurd hf (State.raise_fault_ne_none _ s)
    · have hx' : runCode c s' = exec i s' := by simp only [runCode, hi]
      exact h.alike_of_exec hm (hreads i hi) hd hd' (hx.symm.trans hr) (hx'.symm.trans hr') hf hf'
  | poll c =>
    rw [hl] at hreads
    obtain ⟨e, rfl, hat⟩ := hreads
    exact h.alike_of_await hm hl hat hd hd'

/-! ## The steps of the RADIO and the TIMER -/

/-- The RADIO sends the PDU's frame. -/
theorem BlockSafe.airFrame_eq {l : Latch} (hs : BlockSafe s) (ho : BlockOutput s) (hrs : s.radio.rs = .transmitting l) :
    s.radio.airFrame l.bytes = blockFrame s.params.name := by
  obtain ⟨-, hloop, -⟩ := hs.resting_or_transmit.resolve_left (by simp [hrs])
  rw [latchIsPdu_iff.mp ho.latch l hrs, airFrame_eq_blockFrame (looping_facts hloop).1]

/-- A step that acts on the radio and the air trace only, in both. -/
theorem Alike.of_radio (h : Alike s s') {r r' : Radio} {air air' : List AirFrame} (hrs : r'.rs = r.rs) (hair : air' = air) :
    Alike { s with radio := r, air := air } { s' with radio := r', air := air' } where
  shown := hair ▸ (congrArg (fun u : State => ({ u with radio := r', air := air' } : State)) h.shown :)
  radioState := hrs
  buffer := h.buffer
  timers := { h.timers with }

/-- The RADIO's step. -/
theorem Twins.alike_of_radioStep (h : Twins s s') (he : radioEnabled s = true) : Alike (radioStep s) (radioStep s') := by
  obtain ⟨hs, hs', ho, ho', halike⟩ := h
  have hair : s'.air = s.air := (congrArg State.air halike.shown :)
  rcases radioStep_cases he with ⟨hrs, hx⟩ | ⟨l, hrs, hx⟩ | ⟨hrs, hx⟩ <;> have hrs' := halike.radioState.trans hrs
  · have hx' : radioStep s' = rampUpDone s' := by simp only [radioStep, hrs']
    rw [hx, hx']
    exact halike.of_radio rfl hair
  · have hx' : radioStep s' = txDone l s' := by simp only [radioStep, hrs']
    rw [hx, hx']
    exact halike.of_radio rfl (by rw [hs.airFrame_eq ho hrs, hs'.airFrame_eq ho' hrs', halike.params, hair])
  · have hx' : radioStep s' = disableDone s' := by simp only [radioStep, hrs']
    rw [hx, hx']
    exact halike.of_radio rfl hair

/-- A tick: the timer runs only where all its cells agree. -/
theorem Twins.alike_of_tick (h : Twins s s') (hrun : s.timer.running = true) : Alike (tick s) (tick s') := by
  obtain ⟨hs, -, -, -, halike⟩ := h
  obtain ⟨⟨hdelay, hline⟩, hwidth⟩ := hs.delayPast_of_running hrun
  obtain ⟨running, width, count, target, compare0⟩ := halike.timers
  have hcount := count ⟨hdelay, by omega⟩
  have htarget := target ⟨hdelay, by omega⟩
  have hbits : s'.timer.width = s.timer.width := by rw [Timer.width, width hwidth, Timer.width]
  have hnext : s'.timer.nextCount = s.timer.nextCount := by rw [Timer.nextCount, hcount, hbits, Timer.nextCount]
  have hreach : s'.timer.tickReaches = s.timer.tickReaches := by
    rw [Timer.tickReaches, hnext, htarget, hbits, Timer.tickReaches]
  exact {
    shown := (congrArg (fun u : State => ({ u with timer := (tick s').timer } : State)) halike.shown :)
    radioState := halike.radioState
    buffer := halike.buffer
    timers := {
      running := running
      width := width
      count := fun _ => hnext
      target := target
      compare0 := fun _ => by simp only [tick, hreach, compare0 ⟨hdelay, by omega⟩] } }

/-! ## Steps and runs -/

/-- While the DRIVER runs, both machines step, and stay alike. -/
theorem Twins.step_of_running (h : Twins s s') (hm : s.drv.mode = .running) :
    ∃ t t', step s = .next t ∧ step s' = .next t' ∧ Alike t t' := by
  have hf := h.safe.noFault
  have hf' := h.safe'.noFault
  have hagent := h.alike.nextAgent
  have hsame := h.alike.enabled s.nextAgent
  cases he : enabled s s.nextAgent with
  | false =>
    have hm' : s'.drv.mode = .running := h.alike.drv ▸ hm
    exact ⟨_, _, step_idle hf hm he, step_idle hf' hm' (by rw [hagent, hsame, he]), h.alike.passTurn⟩
  | true =>
    rw [he] at hsame
    cases ha : s.nextAgent with
    | driver =>
      rw [ha] at he hsame hagent
      obtain ⟨u, hu⟩ := driverStep_hasNext s
      obtain ⟨u', hu'⟩ := driverStep_hasNext s'
      refine ⟨_, _, by rw [step_driver hf ha he, hu]; rfl, by rw [step_driver hf' hagent hsame, hu']; rfl, ?_⟩
      exact (h.alike_of_driverStep he hu hu' (h.safe.of_driverStep he hu).noFault
        (h.safe'.of_driverStep hsame hu').noFault).passTurn
    | radio =>
      rw [ha] at he hsame hagent
      exact ⟨_, _, step_radio hf ha he, step_radio hf' hagent hsame, (h.alike_of_radioStep he).passTurn⟩
    | timer =>
      rw [ha] at he hsame hagent
      exact ⟨_, _, step_timer hf ha he, step_timer hf' hagent hsame, (h.alike_of_tick he).passTurn⟩

/-- Both runs stop in the fatal halt, or both go on, alike. -/
theorem Twins.runSteps (h : Twins s s') (n : Nat) :
    (Claims.runSteps n s = .fault .fatalHalt ∧ Claims.runSteps n s' = .fault .fatalHalt) ∨
      ∃ t t', Claims.runSteps n s = .next t ∧ Claims.runSteps n s' = .next t' ∧ Alike t t' ∧ t.params = s.params := by
  induction n generalizing s s' with
  | zero => exact .inr ⟨s, s', rfl, rfl, h.alike, rfl⟩
  | succ n ih =>
    cases hm : s.drv.mode with
    | halted =>
      have hm' : s'.drv.mode = .halted := h.alike.drv ▸ hm
      exact .inl ⟨run_of_fault n (h.safe.step_of_halted hm), run_of_fault n (h.safe'.step_of_halted hm')⟩
    | running =>
      obtain ⟨t, t', ht, ht', halike⟩ := h.step_of_running hm
      have hnext : Twins t t' := ⟨h.safe.of_step ht, h.safe'.of_step ht', everyStepKeepsBlockOutput s t h.safe h.output ht,
        everyStepKeepsBlockOutput s' t' h.safe' h.output' ht', halike⟩
      obtain ⟨-, hparams⟩ := programAndParametersNeverChange s t ht
      simpa only [Claims.runSteps, run_of_next n ht, run_of_next n ht', hparams] using ih hnext

theorem Launch.buffer_eq_zero (h : Launch s) {j : Nat} (hj : j < 39) :
    Memory.read s.ram (s.params.bufBase.toNat + j) = 0 :=
  of_decide_eq_true (List.all_eq_true.mp h.zeroed j (List.mem_range.mpr hj))

/-- At launch the program has set nothing of the timer yet. -/
theorem Launch.timersAlike (h : Launch s) (h' : Launch s') : TimersAlike s s' where
  running := h'.timerStopped.trans h.timerStopped.symm
  width := by simp [WidthSet, h.cleanDriver, Driver.reset]
  count := by simp [DelayPast, h.cleanDriver, Driver.reset]
  target := by simp [DelayPast, h.cleanDriver, Driver.reset]
  compare0 := by simp [DelayPast, h.cleanDriver, Driver.reset]

/-- Two launch states with the same parameters under the same schedule are twins: they differ in hardware draws only, and the
buffer is zero in both. -/
theorem Launch.twins (h : Launch s) (h' : Launch s') (hparams : s'.params = s.params) (hturns : s'.turns = s.turns)
    (hclock : s'.clock = s.clock) : Twins s s' := by
  refine ⟨h.blockSafe, h'.blockSafe, h.blockOutput, h'.blockOutput, ?_, h'.radioIdle.trans h.radioIdle.symm, fun j hj => ?_,
    h.timersAlike h'⟩
  · change s' = { s with radio := s'.radio, timer := s'.timer, ram := s'.ram }
    rw [h.cleanDriver, h.airEmpty, h.logEmpty, h.noFault, h.ownProgram, ← hparams, ← hturns, ← hclock, ← h'.cleanDriver,
      ← h'.airEmpty, ← h'.logEmpty, ← h'.noFault, ← h'.ownProgram]
  · rw [h.buffer_eq_zero hj, ← hparams, h'.buffer_eq_zero hj]

end

/-- Settles O60: two launch states are twins, and twins stay alike. -/
theorem launchDrawsDoNotShow : Obligations.LaunchDrawsDoNotShow := by
  intro s s' n h h' hparams hturns hclock
  rcases (h.twins h' hparams hturns hclock).runSteps n with ⟨hx, hx'⟩ | ⟨t, t', hx, hx', halike, ht⟩ <;> rw [hx, hx']
  have hdrv := halike.drv
  refine ⟨(congrArg State.air halike.shown :), (congrArg State.log halike.shown :), congrArg Driver.txCount hdrv,
    congrArg Driver.seq hdrv, ?_⟩
  rw [← ht]
  exact halike.buffer

end Sys2Proof.Safety
